-- ==== Sys2Proof/Word.lean ====
section
/-! DEFINITION. The widths of PONTEIL-CORE: bytes, 128-bit words, 256-bit port values, 64-bit counters and the
32-bit command word (spec/00_scope.md R10, R11, R13).

A byte sequence is held as a bit vector with byte i in bits 8i+7:8i, the lane order of the ports
(spec/20_memory.md R42); see log 1. -/

namespace Sys2Proof

/-- A byte (R11). -/
abbrev Byte := BitVec 8

/-- A 128-bit word: the byte sequence w.b[0] .. w.b[15] (R11), byte j in bits 8j+7:8j. -/
abbrev Word := BitVec 128

/-- A 32-byte port value: key, carrier, length block or output (R11, R42). -/
abbrev Block := BitVec 256

/-- A segment counter or a segment length: 64 bits, wrapping (R10, R106). -/
abbrev Counter := BitVec 64

/-- A command word, `cmd[31:0]` (R55). -/
abbrev CmdWord := BitVec 32

end Sys2Proof
end

