-- ==== Sys2Proof/Config.lean ====
section
/-! DEFINITION. What the spec leaves open: free values, constants with no body, so that nothing can be proved about
which value they have. None of them is stored in State. -/

namespace Sys2Proof.Config

/-- Which of the presented values stands on the acceptance cycle when the host changed `cmd` or `din` while it
waited (spec/70_reset_and_hazards.md R181, spec/93_implementation_defined.md U8): "a model treats it as any one of
the values presented". Indexed by the number of commands accepted so far. FREE VALUE, log 6. -/
opaque captureChoice : Nat → Nat

/-- What the 32 status lines show while BUSY = 1, apart from bit 5 (spec/70_reset_and_hazards.md R184, U6).
Indexed by the number of commands accepted so far. FREE VALUE, log 7. -/
opaque statusWhileBusy : Nat → BitVec 32

/-- What `dout` shows while BUSY = 1 after a command that changes OUT (spec/70_reset_and_hazards.md R182, U7).
Indexed by the number of commands accepted so far. FREE VALUE, log 7. -/
opaque doutWhileBusy : Nat → Block

/-- How many cycles beyond the first each class of command takes (spec/70_reset_and_hazards.md R187, R188, U11): a
natural number, so the latency is at least 1 and finite. Arguments: the number of the latency parameter, the command
word, and whether MODE = 1. FREE VALUE, log 8. -/
opaque extraCycles : Nat → CmdWord → Bool → Nat

end Sys2Proof.Config
end

