-- ==== Sys2Proof/Syntax.lean ====
section
/-! DEFINITION. The nine commands of PONTEIL-CORE, one constructor per row of spec/opcode_table.json
(spec/30_encoding.md R57, R60). The data operand din travels beside the word and is no part of the instruction (R55). -/

namespace Sys2Proof

/-- The commands of spec/30_encoding.md R57. -/
inductive Instr where
  /-- INIT.HASH: start a keyless computation (R87). -/
  | initHash
  /-- INIT.KEY: start a keyed computation with the key on din (R86). -/
  | initKey
  /-- ABSORB N: absorb the chunk din[0:N) (R107). N is the count of R59. -/
  | absorb (n : Nat)
  /-- END.MSG: close a segment in the MESSAGE domain (R108). -/
  | endMsg
  /-- END.CTX: close a segment in the CONTEXT domain (R109). -/
  | endCtx
  /-- FINAL: compute the tweak and run the diffusion rounds (R121). -/
  | final
  /-- SQUEEZE: one more Update and 32 output bytes (R122). -/
  | squeeze
  /-- UPDATE: one raw Update with the operand on din (R88). -/
  | update
  /-- CLEAR: zeroize and return to IDLE (R89). -/
  | clear
  deriving DecidableEq, Repr

end Sys2Proof
end

