-- ==== Sys2Proof/WellFormed.lean ====
section
/-! DEFINITION. Which instruction terms a command word can hold. The one bound is ABSORB's: N is a 6-bit unsigned
number (spec/30_encoding.md R56, R59). N = 0 and N above the rate are well-formed: they decode as ABSORB and are
rejected later, with LENGTH (R59, R72). -/

namespace Sys2Proof

/-- The instruction fits its command word (R56, R59, R60). -/
def Instr.wellFormed : Instr → Bool
  | .initHash => true
  | .initKey => true
  | .absorb n => decide (n < 64)
  | .endMsg => true
  | .endCtx => true
  | .final => true
  | .squeeze => true
  | .update => true
  | .clear => true

end Sys2Proof
end

