-- ==== Sys2Proof/Decode.lean ====
section
/-! DEFINITION. Decoding the 32-bit command word, total on every word and rejecting by name
(spec/30_encoding.md R55 to R62), and the encoder written from the same table of fields. -/

namespace Sys2Proof

/-- Why a word selects no command. Each is a rejection code of spec/60_exceptions.md R150, so a defined effect of
the block, not a stop. -/
inductive DecodeReject where
  /-- OP = 0x0 or OP ≥ 0x8 (R61). -/
  | opcode
  /-- A legal OP with a reserved bit set, or F or N nonzero where it must be 0 (R62). -/
  | field
  deriving DecidableEq, Repr

/-! ### The fields (R56) -/

/-- OP = bits [3:0]. -/
def opField (w : CmdWord) : BitVec 4 := w.extractLsb' 0 4

/-- F = bit [4]. -/
def fField (w : CmdWord) : Bool := w.extractLsb' 4 1 == 1#1

/-- N = bits [13:8], an unsigned 6-bit number (R59). -/
def nField (w : CmdWord) : Nat := (w.extractLsb' 8 6).toNat

/-- w[31:4] = 0: no bit above OP is set. -/
def noneAboveOp (w : CmdWord) : Bool := w.extractLsb' 4 28 == 0#28

/-- w[31:5] = 0: no bit above F is set. -/
def noneAboveF (w : CmdWord) : Bool := w.extractLsb' 5 27 == 0#27

/-- w[31:14] = 0 and w[7:4] = 0: only OP and N are set. -/
def onlyOpAndN (w : CmdWord) : Bool := w.extractLsb' 14 18 == 0#18 && w.extractLsb' 4 4 == 0#4

/-- A command if its `decode` test of R60 holds, and otherwise a rejection with FIELD (R62). -/
def legalIf (test : Bool) (i : Instr) : Except DecodeReject Instr :=
  if test then .ok i else .error .field

/-- `decode` of R60, on the word alone: it never reads the block's state (R64). -/
def decode (w : CmdWord) : Except DecodeReject Instr :=
  match (opField w).toNat with
  | 0x1 => legalIf (noneAboveF w) (if fField w then .initKey else .initHash)
  | 0x2 => legalIf (onlyOpAndN w) (.absorb (nField w))
  | 0x3 => legalIf (noneAboveF w) (if fField w then .endCtx else .endMsg)
  | 0x4 => legalIf (noneAboveOp w) .final
  | 0x5 => legalIf (noneAboveOp w) .squeeze
  | 0x6 => legalIf (noneAboveOp w) .update
  | 0x7 => legalIf (noneAboveOp w) .clear
  | _ => .error .opcode

/-- The instruction the decoder reads from a table row's word: the word's bits above `nbits` are 0, and every command
is one 32-bit word (R55). -/
def decodeTableWord (nbits w : Nat) : Option Instr :=
  (decode (BitVec.ofNat 32 (w % 2 ^ nbits))).toOption

/-! ### Encoding -/

/-- A command word from its fields (R56): OP at [3:0], F at [4], N at [13:8], every other bit 0. -/
def wordOf (op : BitVec 4) (f : Bool) (n : Nat) : CmdWord :=
  op.setWidth 32 ||| ((BitVec.ofBool f).setWidth 32 <<< 4) ||| ((BitVec.ofNat 6 n).setWidth 32 <<< 8)

/-- The word of an instruction (R57, R58, R59). -/
def encode : Instr → CmdWord
  | .initHash => wordOf 0x1 false 0
  | .initKey => wordOf 0x1 true 0
  | .absorb n => wordOf 0x2 false n
  | .endMsg => wordOf 0x3 false 0
  | .endCtx => wordOf 0x3 true 0
  | .final => wordOf 0x4 false 0
  | .squeeze => wordOf 0x5 false 0
  | .update => wordOf 0x6 false 0
  | .clear => wordOf 0x7 false 0

/-! ### The opcode table (R73, R74) -/

/-- A row of spec/opcode_table.json: a word w selects it exactly when `w &&& mask = pattern` (R73). -/
structure OpcodeRow where
  mnemonic : String
  pattern : CmdWord
  mask : CmdWord
  deriving DecidableEq, Repr

/-- w selects the row (R73). -/
def OpcodeRow.selectedBy (r : OpcodeRow) (w : CmdWord) : Bool := w &&& r.mask == r.pattern

/-- The row of each command, as spec/opcode_table.json lists it. -/
def Instr.row : Instr → OpcodeRow
  | .initHash => ⟨"INIT.HASH", 0x00000001, 0xFFFFFFFF⟩
  | .initKey => ⟨"INIT.KEY", 0x00000011, 0xFFFFFFFF⟩
  | .absorb _ => ⟨"ABSORB", 0x00000002, 0xFFFFC0FF⟩
  | .endMsg => ⟨"END.MSG", 0x00000003, 0xFFFFFFFF⟩
  | .endCtx => ⟨"END.CTX", 0x00000013, 0xFFFFFFFF⟩
  | .final => ⟨"FINAL", 0x00000004, 0xFFFFFFFF⟩
  | .squeeze => ⟨"SQUEEZE", 0x00000005, 0xFFFFFFFF⟩
  | .update => ⟨"UPDATE", 0x00000006, 0xFFFFFFFF⟩
  | .clear => ⟨"CLEAR", 0x00000007, 0xFFFFFFFF⟩

/-- The nine rows, in the table's order. -/
def opcodeTable : List OpcodeRow :=
  [Instr.initHash.row, Instr.initKey.row, (Instr.absorb 0).row, Instr.endMsg.row, Instr.endCtx.row,
    Instr.final.row, Instr.squeeze.row, Instr.update.row, Instr.clear.row]

end Sys2Proof
end

