-- ==== Sys2Proof/Machine/State.lean ====
section
/-! DEFINITION. What the machine holds: the registers of spec/10_state.md R20 (`Regs`), the values captured at the
command port (spec/20_memory.md R40), and what the host does next (spec/43_host_contract.md R142). All of it is plain
data. There is no program counter and no memory (R36, R46). -/

namespace Sys2Proof.Machine

/-- MODE (R27): the absorption layout. -/
inductive Mode where
  /-- 0: the 16-byte rate. -/
  | keyless
  /-- 1: the 32-byte rate. -/
  | keyed
  deriving DecidableEq, Repr

/-- PHASE (R30). The value 3, never produced, is excluded by the type (log 12). -/
inductive Phase where
  /-- 0: no computation has been initialized. -/
  | idle
  /-- 1: initialized, and absorbing. -/
  | absorb
  /-- 2: finalized, and producing output. -/
  | squeeze
  deriving DecidableEq, Repr

/-- The error codes of spec/60_exceptions.md R150. The codes 7 to 15, never produced, are excluded by the type
(log 12). -/
inductive ErrCode where
  /-- 0 NONE: no error since reset, INIT.KEY, INIT.HASH or CLEAR. -/
  | none
  /-- 1 OPCODE: a reserved operation (R61). -/
  | opcode
  /-- 2 FIELD: a malformed word of a legal operation (R62). -/
  | field
  /-- 3 PHASE: a command that PHASE does not allow. -/
  | phase
  /-- 4 LENGTH: ABSORB with N = 0 or N above the rate. -/
  | length
  /-- 5 PARTIAL: ABSORB after a short chunk in the same segment. -/
  | partialChunk
  /-- 6 OPEN: FINAL while a segment has data but no END. -/
  | openSegment
  deriving DecidableEq, Repr

/-- The permutation state S[0..7] (R21): eight separate 128-bit registers. -/
structure Perm where
  s0 : Word
  s1 : Word
  s2 : Word
  s3 : Word
  s4 : Word
  s5 : Word
  s6 : Word
  s7 : Word
  deriving DecidableEq, Repr

/-- Eight words of sixteen zero bytes. -/
def Perm.zeros : Perm := ⟨0, 0, 0, 0, 0, 0, 0, 0⟩

/-- The architectural registers: exactly those of spec/10_state.md R20. -/
structure Regs where
  /-- S[0..7], the permutation state (R21). -/
  perm : Perm
  /-- T, the finalizer's tweak (R23). -/
  t : Word
  /-- OUT, the last squeeze output (R24). -/
  out : Block
  /-- CTX_SEG, the context segment counter (R25). -/
  ctxSeg : Counter
  /-- MSG_SEG, the message segment counter (R25). -/
  msgSeg : Counter
  /-- LEN, the bytes absorbed in the open segment (R26). -/
  len : Counter
  /-- MODE (R27). -/
  mode : Mode
  /-- PHASE (R30). -/
  phase : Phase
  /-- SEGOPEN: the segment has data and no END yet (R28). -/
  segOpen : Bool
  /-- PARTIAL: the open segment's last chunk was shorter than the rate (R29). -/
  partialSeg : Bool
  /-- ERR, the first error since reset, INIT or CLEAR (R31). -/
  err : ErrCode
  /-- REJ: the last command was rejected (R32). -/
  rej : Bool
  /-- BUSY: a command is executing (R33). -/
  busy : Bool
  deriving DecidableEq, Repr

/-- The reset values (R20, spec/70_reset_and_hazards.md R175, R176). -/
def Regs.reset : Regs where
  perm := Perm.zeros
  t := 0
  out := 0
  ctxSeg := 0
  msgSeg := 0
  len := 0
  mode := .keyless
  phase := .idle
  segOpen := false
  partialSeg := false
  err := .none
  rej := false
  busy := false

/-- What the host puts on the command port: a command word and the data-in value with it (R40). -/
structure Offer where
  cmd : CmdWord
  din : Block
  deriving DecidableEq, Repr

/-- One act of the host at the block's inputs (log 2). -/
inductive HostInput where
  /-- The host presents `first` and keeps cmd_valid raised until the command is accepted (R40). `later` lists the
  values it changed cmd and din to while it waited; a host that does its duty has none (R181). -/
  | command (first : Offer) (later : List Offer)
  /-- The host presents a command and drops cmd_valid before it is accepted: it has issued nothing (R179). -/
  | withdrawn (offer : Offer)
  /-- rst_n is asserted, and released, while no command is in the block (R175). -/
  | reset
  /-- The command is accepted, and rst_n is asserted while BUSY = 1 (R185). -/
  | commandCutByReset (offer : Offer)
  deriving DecidableEq, Repr

/-- The machine: its registers, what its command port captured, and what the host does next. -/
structure State where
  /-- The registers of R20. -/
  regs : Regs
  /-- The command word captured at acceptance, until the command completes (R40); 0 between commands (log 4). -/
  cmd : CmdWord
  /-- The data-in value captured at acceptance, until the command completes (R40); 0 between commands (log 4). -/
  din : Block
  /-- What the host does next, the first first (R50, log 2). -/
  inputs : List HostInput
  /-- How many commands have been accepted: the index of the free values (the model's own, log 6). -/
  captures : Nat
  deriving DecidableEq, Repr

/-- The machine right after reset: every register at its reset value (R175), nothing captured, no host input. -/
def State.reset : State where
  regs := Regs.reset
  cmd := 0
  din := 0
  inputs := []
  captures := 0

/-- Reasons for the machine to stop with a fault. There are none: no item of spec/93_implementation_defined.md has
the treatment `fault` or `stuck`, and every state accepts INIT, CLEAR and reset (spec/43_host_contract.md R143). The
errors of spec/60_exceptions.md are rejections: next states. Safe: nothing can be concluded from a fault that
nothing raises (log 11). -/
inductive Fault where
  deriving DecidableEq, Repr

/-- Reasons for the machine to refuse an instruction. -/
inductive Refusal where
  /-- The instruction has no meaning in the model yet. Raised only by `exec`'s arms, and by none of them now; safe. -/
  | notModelled (mnemonic : String)
  deriving DecidableEq, Repr

end Sys2Proof.Machine
end

