-- ==== Sys2Proof/Machine/Flags.lean ====
section
/-! DEFINITION. The flags: STATUS as the host reads it, and the named updates of the flag registers
(spec/10_state.md R30 to R34, R37; spec/60_exceptions.md R150). -/

namespace Sys2Proof.Machine

/-- The number of a phase (R30). -/
def Phase.code : Phase → BitVec 2
  | .idle => 0
  | .absorb => 1
  | .squeeze => 2

/-- The bit of a mode (R27). -/
def Mode.code : Mode → BitVec 1
  | .keyless => 0
  | .keyed => 1

/-- The number of an error code (R150). -/
def ErrCode.code : ErrCode → BitVec 4
  | .none => 0
  | .opcode => 1
  | .field => 2
  | .phase => 3
  | .length => 4
  | .partialChunk => 5
  | .openSegment => 6

/-- STATUS: `zext_32(ERR) << 8 | REJ << 6 | BUSY << 5 | PARTIAL << 4 | SEGOPEN << 3 | MODE << 2 | PHASE` (R34). -/
def Regs.status (r : Regs) : BitVec 32 :=
  r.err.code.setWidth 32 <<< 8 ||| (BitVec.ofBool r.rej).setWidth 32 <<< 6 |||
    (BitVec.ofBool r.busy).setWidth 32 <<< 5 ||| (BitVec.ofBool r.partialSeg).setWidth 32 <<< 4 |||
    (BitVec.ofBool r.segOpen).setWidth 32 <<< 3 ||| r.mode.code.setWidth 32 <<< 2 ||| r.phase.code.setWidth 32

/-- An error is locked in: ERR ≠ 0 (R153). -/
def Regs.locked (r : Regs) : Bool := r.err != .none

/-- REJ <- 0: the command was executed (R32). -/
def Regs.executed (r : Regs) : Regs := { r with rej := false }

/-- `Reject(code)`: the first error wins, and REJ <- 1 (R152). -/
def Regs.rejected (r : Regs) (code : ErrCode) : Regs :=
  { r with err := if r.err = .none then code else r.err, rej := true }

/-- The flags of a segment that took a chunk of n bytes: SEGOPEN <- 1, PARTIAL <- (N < rate) (R28, R29, R37). -/
def Regs.segmentTook (r : Regs) (n rate : Nat) : Regs :=
  { r with segOpen := true, partialSeg := decide (n < rate) }

/-- A segment is closed: LEN <- 0, SEGOPEN <- 0, PARTIAL <- 0 (R26, R28, R29, R37). -/
def Regs.segmentClosed (r : Regs) : Regs :=
  { r with len := 0, segOpen := false, partialSeg := false }

end Sys2Proof.Machine
end

