-- ==== Sys2Proof/Machine/Bytes.lean ====
section
/-! DEFINITION. Byte sequences and the bit vectors that hold them: byte lanes, halves, little-endian integers
(spec/00_scope.md R11, R12, R14; spec/20_memory.md R42 to R44). Byte order is decided here and nowhere else. -/

namespace Sys2Proof.Machine

/-- `zeros(n)`: n zero bytes (R14). -/
def zeroBytes (n : Nat) : List Byte := List.replicate n 0

/-- Byte i of a bit vector: its bits 8i+7:8i (R42). -/
def byteAt {w : Nat} (x : BitVec w) (i : Nat) : Byte := x.extractLsb' (8 * i) 8

/-- The bit vector of a byte sequence, byte 0 in the lowest lane; lanes past its end are zero (R42). -/
def ofBytes (w : Nat) : List Byte → BitVec w
  | [] => 0
  | b :: bs => b.setWidth w ||| (ofBytes w bs <<< 8)

/-- The first n bytes of a bit vector as a sequence, byte 0 first (R42). -/
def bytesOf {w : Nat} (x : BitVec w) (n : Nat) : List Byte := (List.range n).map (byteAt x)

/-- The 16-byte word whose byte j is `f j` (R11). -/
def wordOfFn (f : Nat → Byte) : Word := ofBytes 128 ((List.range 16).map f)

/-- A 16-byte word written as the spec writes it: hex digits, byte 0 first (R11). -/
def wordHex (x : BitVec 128) : Word := wordOfFn fun j => byteAt x (15 - j)

/-- A 32-byte value written as the spec writes it: hex digits, byte 0 first (R11). -/
def blockHex (x : BitVec 256) : Block := ofBytes 256 ((List.range 32).map fun j => byteAt x (31 - j))

/-- The first half of a 32-byte value: bytes [0:16) (R43). -/
def firstHalf (b : Block) : Word := b.extractLsb' 0 128

/-- The second half of a 32-byte value: bytes [16:32) (R43). -/
def secondHalf (b : Block) : Word := b.extractLsb' 128 128

/-- `a || b` for two 16-byte words, the bytes of `a` first (R12, R43). -/
def joinHalves (a b : Word) : Block := b ++ a

/-- `LE64(v)`: the 8-byte little-endian encoding, byte j = (v >> 8j) & 0xFF (R14, R44). -/
def le64 (v : Counter) : List Byte := (List.range 8).map (byteAt v)

end Sys2Proof.Machine
end

