-- ==== Sys2Proof/Machine/Aes.lean ====
section
/-! DEFINITION. The AES round: field arithmetic, the S-box, SubBytes, ShiftRows, MixColumns and AESRound
(spec/40_permutation.md R76 to R83). -/

namespace Sys2Proof.Machine

/-! ### GF(2^8) (R76) -/

/-- Multiplication by x modulo x^8 + x^4 + x^3 + x + 1. -/
def xtime (a : Byte) : Byte := (a <<< 1) ^^^ (if a.getLsbD 7 then 0x1B else 0x00)

/-- `gmul(a, 2)`. -/
def gmul2 (a : Byte) : Byte := xtime a

/-- `gmul(a, 3)`. -/
def gmul3 (a : Byte) : Byte := xtime a ^^^ a

/-! ### The S-box (R77, R78) -/

/-- Row h of the table of R78, written as the table is: the entry of column 0 first. -/
def sboxRow : Nat → BitVec 128
  | 0x0 => 0x637c777bf26b6fc53001672bfed7ab76
  | 0x1 => 0xca82c97dfa5947f0add4a2af9ca472c0
  | 0x2 => 0xb7fd9326363ff7cc34a5e5f171d83115
  | 0x3 => 0x04c723c31896059a071280e2eb27b275
  | 0x4 => 0x09832c1a1b6e5aa0523bd6b329e32f84
  | 0x5 => 0x53d100ed20fcb15b6acbbe394a4c58cf
  | 0x6 => 0xd0efaafb434d338545f9027f503c9fa8
  | 0x7 => 0x51a3408f929d38f5bcb6da2110fff3d2
  | 0x8 => 0xcd0c13ec5f974417c4a77e3d645d1973
  | 0x9 => 0x60814fdc222a908846eeb814de5e0bdb
  | 0xa => 0xe0323a0a4906245cc2d3ac629195e479
  | 0xb => 0xe7c8376d8dd54ea96c56f4ea657aae08
  | 0xc => 0xba78252e1ca6b4c6e8dd741f4bbd8b8a
  | 0xd => 0x703eb5664803f60e613557b986c11d9e
  | 0xe => 0xe1f8981169d98e949b1e87e9ce5528df
  | 0xf => 0x8ca1890dbfe6426841992d0fb054bb16
  | _ => 0

/-- `SBOX(0x hl)`: the entry at row h, column l (R78). -/
def sbox (a : Byte) : Byte := byteAt (sboxRow (a.toNat / 16)) (15 - a.toNat % 16)

/-- The field product of `a` and the top k bits of `b`, from bit 7 down (R17, R76). -/
def gmulTop (a b : Byte) : Nat → Byte
  | 0 => 0
  | k + 1 => xtime (gmulTop a b k) ^^^ (if b.getLsbD (7 - k) then a else 0)

/-- The field product (R17, R76). -/
def gmul (a b : Byte) : Byte := gmulTop a b 8

/-- `a` squared k times. -/
def gsquare (a : Byte) : Nat → Byte
  | 0 => a
  | k + 1 => gmul (gsquare a k) (gsquare a k)

/-- The multiplicative inverse in GF(2^8), with the inverse of 0 taken as 0 (R77): a^254, that is, the product of
a^2, a^4, .., a^128. -/
def ginv (a : Byte) : Byte :=
  gmul (gsquare a 1) (gmul (gsquare a 2) (gmul (gsquare a 3) (gmul (gsquare a 4)
    (gmul (gsquare a 5) (gmul (gsquare a 6) (gsquare a 7))))))

/-- The S-box from its algebraic definition (R77). The machine uses the table; the two agree entry for entry (R78). -/
def sboxAlgebraic (a : Byte) : Byte :=
  ginv a ^^^ (ginv a).rotateLeft 1 ^^^ (ginv a).rotateLeft 2 ^^^ (ginv a).rotateLeft 3 ^^^
    (ginv a).rotateLeft 4 ^^^ 0x63

/-! ### The round (R79 to R83)

Byte j of a word is the matrix element of row j mod 4 and column j div 4 (R79). -/

/-- SubBytes (R80). -/
def subBytes (w : Word) : Word := wordOfFn fun j => sbox (byteAt w j)

/-- ShiftRows: row r is rotated left by r positions (R81). -/
def shiftRows (w : Word) : Word :=
  wordOfFn fun j => byteAt w (j % 4 + 4 * ((j / 4 + j % 4) % 4))

/-- Row r of the MixColumns result for the column (a0, a1, a2, a3) (R82). -/
def mixRow (a0 a1 a2 a3 : Byte) : Nat → Byte
  | 0 => gmul2 a0 ^^^ gmul3 a1 ^^^ a2 ^^^ a3
  | 1 => a0 ^^^ gmul2 a1 ^^^ gmul3 a2 ^^^ a3
  | 2 => a0 ^^^ a1 ^^^ gmul2 a2 ^^^ gmul3 a3
  | _ => gmul3 a0 ^^^ a1 ^^^ a2 ^^^ gmul2 a3

/-- MixColumns (R82). -/
def mixColumns (w : Word) : Word :=
  wordOfFn fun j =>
    mixRow (byteAt w (4 * (j / 4))) (byteAt w (4 * (j / 4) + 1)) (byteAt w (4 * (j / 4) + 2))
      (byteAt w (4 * (j / 4) + 3)) (j % 4)

/-- `AESRound(x, k)` (R83, spec/90_conflicts.md C1): the first argument is transformed, the second is added as the
round key. -/
def aesRound (x k : Word) : Word := mixColumns (shiftRows (subBytes x)) ^^^ k

end Sys2Proof.Machine
end

