-- ==== Sys2Proof/Machine/Permutation.lean ====
section
/-! DEFINITION. The permutation: round constants, Update, Initialize, the diffusion rounds and the extraction
(spec/40_permutation.md R75, R84, R85; spec/42_finalizer.md R120, R123). -/

namespace Sys2Proof.Machine

/-- C0 (R75). -/
def c0 : Word := wordHex 0x000101020305080d1522375990e97962

/-- C1 (R75). -/
def c1 : Word := wordHex 0xdb3d18556dc22ff12011314273b528dd

/-- `Update(S, m0, m1)`: all eight new words from the pre-update values (R84). -/
def permUpdate (s : Perm) (m0 m1 : Word) : Perm where
  s0 := aesRound s.s7 (s.s0 ^^^ m0)
  s1 := aesRound s.s0 s.s1
  s2 := aesRound s.s1 s.s2
  s3 := aesRound s.s2 s.s3
  s4 := aesRound s.s3 (s.s4 ^^^ m1)
  s5 := aesRound s.s4 s.s5
  s6 := aesRound s.s5 s.s6
  s7 := aesRound s.s6 s.s7

/-- `repeat n times: S <- Update(S, m0, m1)` (R15). -/
def permUpdates (m0 m1 : Word) : Nat → Perm → Perm
  | 0, s => s
  | n + 1, s => permUpdates m0 m1 n (permUpdate s m0 m1)

/-- The state before the initialization rounds (R85). -/
def permLoad (k0 k1 : Word) : Perm := ⟨0, k1, k0 ^^^ c1, k0 ^^^ c0, 0, k0, k1 ^^^ c0, k1 ^^^ c1⟩

/-- The number of initialization Updates (R10, R85). -/
def initRounds : Nat := 12

/-- The number of diffusion Updates (R10, R121). -/
def diffusionRounds : Nat := 11

/-- `Initialize(k0, k1)` (R85). -/
def permInit (k0 k1 : Word) : Perm := permUpdates c0 c1 initRounds (permLoad k0 k1)

/-- The counter block `Tb = LE64(CTX_SEG * 8) || LE64(MSG_SEG * 8)`, each product modulo 2^64 (R120). -/
def counterBlock (ctxSeg msgSeg : Counter) : Word := ofBytes 128 (le64 (ctxSeg * 8) ++ le64 (msgSeg * 8))

/-- The tweak `t = S[2] xor Tb` (R120). -/
def tweak (s : Perm) (ctxSeg msgSeg : Counter) : Word := s.s2 ^^^ counterBlock ctxSeg msgSeg

/-- The first half of the extraction: `S[1] xor S[6] xor (S[2] and S[3])` (R123). -/
def extractFirst (s : Perm) : Word := s.s1 ^^^ s.s6 ^^^ (s.s2 &&& s.s3)

/-- The second half of the extraction: `S[2] xor S[5] xor (S[6] and S[7])` (R123). -/
def extractSecond (s : Perm) : Word := s.s2 ^^^ s.s5 ^^^ (s.s6 &&& s.s7)

/-- `Extract(S) = out1 || out2` (R123). -/
def extract (s : Perm) : Block := joinHalves (extractFirst s) (extractSecond s)

end Sys2Proof.Machine
end

