-- ==== Sys2Proof/Machine/Operands.lean ====
section
/-! DEFINITION. The operands a command builds from din and from the segment length: key halves, chunk, carriers and
length block (spec/30_encoding.md R65, R66; spec/41_absorber.md R100 to R103). -/

namespace Sys2Proof.Machine

/-- The rate: the number of input bytes one data block takes (R100). -/
def Mode.rate : Mode → Nat
  | .keyed => 32
  | .keyless => 16

/-- The chunk of N bytes: din[0:N); din[N:32) is ignored (R65, R107). -/
def chunkOf (din : Block) (n : Nat) : List Byte := bytesOf din n

/-- `KeyedCarrier(c) = c || zeros(32 - N)` (R101). -/
def keyedCarrier (c : List Byte) : Block := ofBytes 256 (c ++ zeroBytes (32 - c.length))

/-- Eight bytes of a half carrier and the eight zero bytes after them: the bytes of c, at most eight, then zeros
(R102). -/
def halfCarrier (c : List Byte) : List Byte := c ++ zeroBytes (16 - c.length)

/-- `KeylessCarrier(c)`: chunk bytes 0..7 at [0:8), chunk bytes 8..15 at [16:24), all else zero (R102). -/
def keylessCarrier (c : List Byte) : Block :=
  ofBytes 256 (halfCarrier (c.take 8) ++ halfCarrier (c.drop 8))

/-- The carrier of a chunk in the layout MODE selects (R27, R107). -/
def carrier : Mode → List Byte → Block
  | .keyed, c => keyedCarrier c
  | .keyless, c => keylessCarrier c

/-- The domain of a segment (R58, R103). -/
inductive Domain where
  | message
  | context
  deriving DecidableEq, Repr

/-- The domain tag: MESSAGE = 0x00, CONTEXT = 0x80 (R58, R103). -/
def Domain.tag : Domain → Byte
  | .message => 0x00
  | .context => 0x80

/-- `LengthBlock(len, tag)`: LE64(len * 8), zeros, and byte 31 xored with the tag; len * 8 modulo 2^64 (R103, R106). -/
def lengthBlock (len : Counter) (tag : Byte) : Block :=
  ofBytes 256 ((le64 (len * 8) ++ zeroBytes 24).modify 31 (· ^^^ tag))

/-- Feed a 32-byte block to Update as its two halves (R43, R107, R108). -/
def feedBlock (s : Perm) (blk : Block) : Perm := permUpdate s (firstHalf blk) (secondHalf blk)

end Sys2Proof.Machine
end

