-- ==== Sys2Proof/Machine/Ops.lean ====
section
/-! DEFINITION. The shared operations: rejection (the block's only exception, spec/60_exceptions.md R150 to R153), the
checks that lead to it (R151), leaving the error state (R154), starting a computation, and the command port
(spec/20_memory.md R40, R41; spec/70_reset_and_hazards.md R175 to R185). -/

namespace Sys2Proof.Machine

/-- What a step or a meaning answers. -/
abbrev Result := Host.Outcome State Fault Refusal

/-! ### Rejection and the checks before it -/

/-- Rejection: a rejected command changes only ERR and REJ (R152). With ERR ≠ 0 it is silent: ERR keeps its value
(R153). -/
def State.reject (s : State) (code : ErrCode) : State := { s with regs := s.regs.rejected code }

/-- The code a word is rejected with when it selects no command (R61, R62, R150). -/
def rejectCode : DecodeReject → ErrCode
  | .opcode => .opcode
  | .field => .field

/-- One line `check c else raise Reject(code)` (R15). -/
structure Check where
  passes : Bool
  code : ErrCode
  deriving DecidableEq, Repr

/-- The code of the first check that fails; no later check is made (R151). -/
def firstFailure : List Check → Option ErrCode
  | [] => none
  | c :: cs => if c.passes then firstFailure cs else some c.code

/-- Steps 2 to 5 of the check order (R151) for the commands the error lock holds back: the lock first (R153; the code
given there is not recorded, since ERR ≠ 0), then the command's own checks in order. The command is executed by
`effect` if all pass, and rejected before any change if one fails (R152). -/
def guarded (checks : List Check) (effect : Regs → Regs) (s : State) : State :=
  if s.regs.locked then s.reject s.regs.err
  else
    match firstFailure checks with
    | some code => s.reject code
    | none => { s with regs := effect s.regs }

/-- `check PHASE = p else raise Reject(PHASE)` (R150, R151 step 3). -/
def checkPhase (r : Regs) (p : Phase) : Check := ⟨decide (r.phase = p), .phase⟩

/-- `check SEGOPEN = 0 else raise Reject(OPEN)` (R121, R151 step 4). -/
def checkClosed (r : Regs) : Check := ⟨!r.segOpen, .openSegment⟩

/-- `check 1 <= N and N <= r else raise Reject(LENGTH)` (R107, R151 step 5). -/
def checkLength (r : Regs) (n : Nat) : Check := ⟨decide (1 ≤ n ∧ n ≤ r.mode.rate), .length⟩

/-- `check PARTIAL = 0 else raise Reject(PARTIAL)` (R107, R151 step 5). -/
def checkWhole (r : Regs) : Check := ⟨!r.partialSeg, .partialChunk⟩

/-! ### Leaving the error state, and starting afresh (R154) -/

/-- INIT.KEY, INIT.HASH and CLEAR: the commands the error lock does not hold back (R151, R153). -/
def startsAfresh : Instr → Bool
  | .initHash => true
  | .initKey => true
  | .absorb _ => false
  | .endMsg => false
  | .endCtx => false
  | .final => false
  | .squeeze => false
  | .update => false
  | .clear => true

/-- Every register but BUSY to its reset value (R89, R175). ERR <- 0 is the return from the error state (R154). -/
def Regs.zeroized (r : Regs) : Regs := { Regs.reset with busy := r.busy }

/-- Start a computation: Initialize(k0, k1), the mode, PHASE <- ABSORB, and every other register zero, ERR among them
(R86, R87, R154, R177). -/
def Regs.started (r : Regs) (mode : Mode) (k0 k1 : Word) : Regs :=
  { r.zeroized with perm := permInit k0 k1, mode := mode, phase := .absorb }

/-- The reset event: every register takes its reset value (R175), and nothing is captured. -/
def State.hardReset (s : State) : State := { s with regs := Regs.reset, cmd := 0, din := 0 }

/-! ### The command port -/

/-- cmd_ready = not BUSY (R33, R40). -/
def State.cmdReady (s : State) : Bool := !s.regs.busy

/-- The value captured on the acceptance cycle: the one presented, if the host held it stable, and otherwise any one
of the values presented (R181; `choice` is the free value). -/
def capturedOffer (choice : Nat) (first : Offer) : List Offer → Offer
  | [] => first
  | o :: os => (first :: o :: os).getD (choice % (os.length + 2)) first

/-- Acceptance: cmd and din are captured, BUSY <- 1, and the host goes on to its next input (R40). -/
def State.accept (s : State) (o : Offer) (rest : List HostInput) : State :=
  { s with
    regs := { s.regs with busy := true }
    cmd := o.cmd
    din := o.din
    inputs := rest
    captures := s.captures + 1 }

/-- Completion: BUSY <- 0 (R33); the captured values are dropped (log 4). -/
def State.retire (s : State) : State :=
  { s with regs := { s.regs with busy := false }, cmd := 0, din := 0 }

/-! ### The output ports (R41, R49) -/

/-- The word in the block, once decoded, changes OUT when it is executed: INIT.KEY, INIT.HASH, CLEAR, and SQUEEZE
where it is not rejected (R24, R182). -/
def changesOut (w : CmdWord) (r : Regs) : Bool :=
  match decode w with
  | .ok .initHash => true
  | .ok .initKey => true
  | .ok .clear => true
  | .ok .squeeze => !r.locked && decide (r.phase = .squeeze)
  | _ => false

/-- `status[31:0]`: STATUS while BUSY = 0; while BUSY = 1, bit 5 reads 1 and the other bits are any value (R34, R41,
R184). -/
def State.statusPort (s : State) : BitVec 32 :=
  if s.regs.busy then Config.statusWhileBusy s.captures ||| (1 <<< 5) else s.regs.status

/-- `dout[255:0]`: OUT, except while BUSY = 1 after a command that changes OUT, when it is any value (R41, R182). -/
def State.doutPort (s : State) : Block :=
  if s.regs.busy && changesOut s.cmd s.regs then Config.doutWhileBusy s.captures else s.regs.out

end Sys2Proof.Machine
end

