-- ==== Sys2Proof/Machine/Absorb.lean ====
section
/-! DEFINITION. The absorber commands: ABSORB, END.MSG and END.CTX (spec/41_absorber.md R107 to R109). -/

namespace Sys2Proof.Machine

/-- The effect of ABSORB N once its checks have passed: feed the carrier of the chunk din[0:N), add N to LEN modulo
2^64, open the segment, and note a short chunk (R107). -/
def absorbEffect (n : Nat) (din : Block) (r : Regs) : Regs :=
  ({ r with
      perm := feedBlock r.perm (carrier r.mode (chunkOf din n))
      len := r.len + BitVec.ofNat 64 n }.segmentTook n r.mode.rate).executed

/-- ABSORB N (R107). -/
def execAbsorb (n : Nat) (s : State) : Result :=
  .next (guarded [checkPhase s.regs .absorb, checkLength s.regs n, checkWhole s.regs] (absorbEffect n s.din) s)

/-- Feed the length block of the open segment in a domain (R103, R108, R109). -/
def feedLength (r : Regs) (d : Domain) : Perm := feedBlock r.perm (lengthBlock r.len d.tag)

/-- The effect of END.MSG once its check has passed: the trailing length block with tag 0x00, one more message
segment, and the segment closed (R108). -/
def endMsgEffect (r : Regs) : Regs :=
  { r with perm := feedLength r .message, msgSeg := r.msgSeg + 1 }.segmentClosed.executed

/-- END.MSG (R108). -/
def execEndMsg (s : State) : Result :=
  .next (guarded [checkPhase s.regs .absorb] endMsgEffect s)

/-- The effect of END.CTX once its check has passed: the trailing length block with tag 0x80, one more context
segment, and the segment closed (R109). -/
def endCtxEffect (r : Regs) : Regs :=
  { r with perm := feedLength r .context, ctxSeg := r.ctxSeg + 1 }.segmentClosed.executed

/-- END.CTX (R109). -/
def execEndCtx (s : State) : Result :=
  .next (guarded [checkPhase s.regs .absorb] endCtxEffect s)

end Sys2Proof.Machine
end

