-- ==== Sys2Proof/Machine/Finalize.lean ====
section
/-! DEFINITION. The finalizer commands: FINAL and SQUEEZE (spec/42_finalizer.md R121, R122). -/

namespace Sys2Proof.Machine

/-- The tweak FINAL computes, from S[2] before the first diffusion round (R120, R121). -/
def finalTweak (r : Regs) : Word := tweak r.perm r.ctxSeg r.msgSeg

/-- The effect of FINAL once its checks have passed: eleven Updates with (t, t), T <- t, PHASE <- SQUEEZE (R121). -/
def finalEffect (r : Regs) : Regs :=
  { r with
    perm := permUpdates (finalTweak r) (finalTweak r) diffusionRounds r.perm
    t := finalTweak r
    phase := .squeeze }.executed

/-- FINAL (R121). -/
def execFinal (s : State) : Result :=
  .next (guarded [checkPhase s.regs .absorb, checkClosed s.regs] finalEffect s)

/-- The effect of SQUEEZE once its check has passed: one Update with (T, T), then the extraction from the new words
into OUT (R122). -/
def squeezeEffect (r : Regs) : Regs :=
  { r with perm := permUpdate r.perm r.t r.t, out := extract (permUpdate r.perm r.t r.t) }.executed

/-- SQUEEZE (R122). -/
def execSqueeze (s : State) : Result :=
  .next (guarded [checkPhase s.regs .squeeze] squeezeEffect s)

end Sys2Proof.Machine
end

