-- ==== Sys2Proof/Machine/Permute.lean ====
section
/-! DEFINITION. The permutation commands: INIT.HASH, INIT.KEY, UPDATE and CLEAR (spec/40_permutation.md R86 to R89). -/

namespace Sys2Proof.Machine

/-- INIT.HASH (R87): Initialize with the zero key, keyless. Accepted in every phase, also with ERR ≠ 0; din is
ignored. -/
def execInitHash (s : State) : Result :=
  .next { s with regs := s.regs.started .keyless 0 0 }

/-- INIT.KEY (R86): Initialize with the key on din, keyed. Accepted in every phase, also with ERR ≠ 0. -/
def execInitKey (s : State) : Result :=
  .next { s with regs := s.regs.started .keyed (firstHalf s.din) (secondHalf s.din) }

/-- The effect of UPDATE once its check has passed (R88). -/
def updateEffect (din : Block) (r : Regs) : Regs := { r with perm := feedBlock r.perm din }.executed

/-- UPDATE (R88): one raw Update with the operand on din. -/
def execUpdate (s : State) : Result :=
  .next (guarded [checkPhase s.regs .absorb] (updateEffect s.din) s)

/-- CLEAR (R89): zeroize every register and return to IDLE. Accepted in every phase, also with ERR ≠ 0. -/
def execClear (s : State) : Result :=
  .next { s with regs := s.regs.zeroized }

end Sys2Proof.Machine
end

