-- ==== Sys2Proof/Machine/Dispatch.lean ====
section
/-! DEFINITION. One arm per command (spec/30_encoding.md R57). -/

namespace Sys2Proof.Machine

-- The meaning of a decoded command on the state in which it was captured.
def exec (i : Instr) (s : State) : Host.Outcome State Fault Refusal :=
  match i with
  | .initHash => Sys2Proof.Machine.execInitHash s
  | .initKey => Sys2Proof.Machine.execInitKey s
  | .absorb n => Sys2Proof.Machine.execAbsorb n s
  | .endMsg => Sys2Proof.Machine.execEndMsg s
  | .endCtx => Sys2Proof.Machine.execEndCtx s
  | .final => Sys2Proof.Machine.execFinal s
  | .squeeze => Sys2Proof.Machine.execSqueeze s
  | .update => Sys2Proof.Machine.execUpdate s
  | .clear => Sys2Proof.Machine.execClear s

end Sys2Proof.Machine
end

