-- ==== Sys2Proof/Machine/Port.lean ====
section
/-! DEFINITION. What happens to a command word in the block, and what each input of the host does
(spec/20_memory.md R40; spec/60_exceptions.md R151; spec/70_reset_and_hazards.md R175, R179 to R181, R185). -/

namespace Sys2Proof.Machine

/-- Apply a function to the next state of an outcome. -/
def onNext (f : State → State) : Result → Result
  | .next s => .next (f s)
  | .fault r => .fault r
  | .refused r => .refused r

/-- Decode, and then execute or reject (R60, R151 step 1): the word captured in `s`. -/
def runCaptured (s : State) : Result :=
  match decode s.cmd with
  | .ok i => exec i s
  | .error why => .next (s.reject (rejectCode why))

/-- One accepted command as one indivisible step (R180): captured, executed or rejected, completed. -/
def runCommand (o : Offer) (rest : List HostInput) (s : State) : Result :=
  onNext State.retire (runCaptured (s.accept o rest))

/-- One input of the host, while BUSY = 0. -/
def runInput (i : HostInput) (rest : List HostInput) (s : State) : Result :=
  match i with
  | .command first later => runCommand (capturedOffer (Config.captureChoice s.captures) first later) rest s
  | .withdrawn _ => .next { s with inputs := rest }
  | .reset => .next { s.hardReset with inputs := rest }
  | .commandCutByReset o => .next (s.accept o rest).hardReset

/-- The block between commands: idle and holding its state while the host gives it nothing (R164), and otherwise at
the host's next input. -/
def runNextInput (s : State) : Result :=
  match s.inputs with
  | [] => .next s
  | i :: rest => runInput i rest s

/-- The host presents the word w, with the data-in value of the state, ahead of all it was going to do. -/
def State.withWordPresented (s : State) (w : CmdWord) : State :=
  { s with
    regs := { s.regs with busy := false }
    inputs := .command ⟨w, s.din⟩ [] :: s.inputs }

end Sys2Proof.Machine
end

