-- ==== Sys2Proof/Machine/Step.lean ====
section
/-! DEFINITION. One step (spec/70_reset_and_hazards.md R180): the host's next input, taken as a whole. -/

namespace Sys2Proof.Machine

/-- One step. While BUSY = 1, which no step leaves behind (R180), the block is not ready: it takes no input and the
command in it completes (R40, R189; log 5). -/
def step (s : State) : Host.Outcome State Fault Refusal :=
  if s.cmdReady then runNextInput s else .next s.retire

/-- `s` with the command word w presented next, so that the very next step accepts it (log 3). The command's data
operand is the value `s.din`. -/
def State.withFetchWord (s : State) (nbits w : Nat) : State :=
  s.withWordPresented (BitVec.ofNat 32 (w % 2 ^ nbits))

end Sys2Proof.Machine
end

