-- ==== Sys2Proof/Machine/Source.lean ====
section
/-! DEFINITION. The source's own functions, as the spec transcribes them: AbsorbDomain, ComputeFinalOutput, ComputeTag
and ComputeHash (spec/41_absorber.md R104; spec/42_finalizer.md R126; spec/43_host_contract.md R135, R136, R140). They
are what the host's command sequences compute; no command calls them. -/

namespace Sys2Proof.Machine

/-- Bytes [a : b) of a sequence (R12). -/
def slice (x : List Byte) (a b : Nat) : List Byte := (x.drop a).take (b - a)

/-- The full blocks of AbsorbDomain, `for j in 0 .. floor(L / r) - 1` (R104). -/
def absorbFullBlocks (mode : Mode) (x : List Byte) (s : Perm) : Perm :=
  (List.range (x.length / mode.rate)).foldl
    (fun s j => feedBlock s (carrier mode (slice x (j * mode.rate) ((j + 1) * mode.rate)))) s

/-- The full blocks and the trailing partial block, if there is one (R104). -/
def absorbData (mode : Mode) (x : List Byte) (s : Perm) : Perm :=
  if x.length % mode.rate ≠ 0 then
    feedBlock (absorbFullBlocks mode x s) (carrier mode (slice x (x.length - x.length % mode.rate) x.length))
  else absorbFullBlocks mode x s

/-- `AbsorbDomain(S, x, tag, keyed)` as a function of the state words (R104): the data blocks, then the length
block. -/
def absorbDomain (mode : Mode) (d : Domain) (x : List Byte) (s : Perm) : Perm :=
  feedBlock (absorbData mode x s) (lengthBlock (BitVec.ofNat 64 x.length) d.tag)

/-- The state after the eleven diffusion rounds of ComputeFinalOutput (R126). -/
def diffuse (t : Word) (s : Perm) : Perm := permUpdates t t diffusionRounds s

/-- n rounds of the squeeze: Update, then emit (R126). -/
def squeezeStream (t : Word) : Nat → Perm → List Byte
  | 0, _ => []
  | n + 1, s => bytesOf (extract (permUpdate s t t)) 32 ++ squeezeStream t n (permUpdate s t t)

/-- `ceil(a / b)` for b ≥ 1 (R14). -/
def ceilDiv (a b : Nat) : Nat := (a + b - 1) / b

/-- `ComputeFinalOutput(S, cs, ms, L)` (R126): one round per 32 bytes, and the last chunk truncated. -/
def computeFinalOutput (s : Perm) (cs ms : Counter) (outLen : Nat) : List Byte :=
  (squeezeStream (tweak s cs ms) (ceilDiv outLen 32) (diffuse (tweak s cs ms) s)).take outLen

/-- The pipeline from the key halves: the context if it is not empty, the message always, and the output (R135, R136,
R140). -/
def computeOutput (mode : Mode) (k0 k1 : Word) (outLen : Nat) (context message : List Byte) : List Byte :=
  if context = [] then
    computeFinalOutput (absorbDomain mode .message message (permInit k0 k1)) 0 1 outLen
  else
    computeFinalOutput
      (absorbDomain mode .message message (absorbDomain mode .context context (permInit k0 k1))) 1 1 outLen

/-- `ComputeTag` (R135, R140). -/
def computeTag (outLen : Nat) (key : Block) (context message : List Byte) : List Byte :=
  computeOutput .keyed (firstHalf key) (secondHalf key) outLen context message

/-- `ComputeHash` (R136, R140). -/
def computeHash (outLen : Nat) (context message : List Byte) : List Byte :=
  computeOutput .keyless 0 0 outLen context message

end Sys2Proof.Machine
end

