-- ==== Sys2Proof/Machine/Sequences.lean ====
section
/-! DEFINITION. The host's side: the pseudo-commands as lists of commands, and a run of such a list with what the host
reads after each command (spec/30_encoding.md R68 to R71; spec/42_finalizer.md R124; spec/43_host_contract.md R135,
R136, R143). -/

namespace Sys2Proof.Machine

/-! ### Pseudo-commands -/

/-- A command with no data operand: din all zero (R68). -/
def plainOffer (i : Instr) : Offer := ⟨encode i, 0⟩

/-- `ABSORB |c|, c`: the bytes in din[0:|c|), zeros above (R68). -/
def absorbOffer (c : List Byte) : Offer := ⟨encode (.absorb c.length), ofBytes 256 c⟩

/-- The chunks of a segment: exactly the rate, the last one shorter or equal (R69). -/
def chunks (rate : Nat) (x : List Byte) : List (List Byte) :=
  (List.range (ceilDiv x.length rate)).map fun j => slice x (j * rate) (min ((j + 1) * rate) x.length)

/-- The END command of a domain (R58). -/
def endOf : Domain → Instr
  | .message => .endMsg
  | .context => .endCtx

/-- `ABSORBSEG.MSG x` and `ABSORBSEG.CTX x` (R69). -/
def absorbSeg (mode : Mode) (d : Domain) (x : List Byte) : List Offer :=
  (chunks mode.rate x).map absorbOffer ++ [plainOffer (endOf d)]

/-- `SQUEEZEN L` (R70). -/
def squeezeN (outLen : Nat) : List Offer := List.replicate (ceilDiv outLen 32) (plainOffer .squeeze)

/-- The context segment of a TAG or HASH, if the context is not empty (R135, R136). -/
def contextSeg (mode : Mode) (context : List Byte) : List Offer :=
  if context = [] then [] else absorbSeg mode .context context

/-- `TAG L, key, context, message` (R71, R135). -/
def tagSequence (outLen : Nat) (key : Block) (context message : List Byte) : List Offer :=
  ⟨encode .initKey, key⟩ ::
    (contextSeg .keyed context ++ absorbSeg .keyed .message message ++ [plainOffer .final] ++ squeezeN outLen)

/-- `HASH L, context, message` (R71, R136). -/
def hashSequence (outLen : Nat) (context message : List Byte) : List Offer :=
  plainOffer .initHash ::
    (contextSeg .keyless context ++ absorbSeg .keyless .message message ++ [plainOffer .final] ++ squeezeN outLen)

/-! ### Runs -/

/-- What the host reads between two commands (R143). -/
structure Reading where
  status : BitVec 32
  dout : Block
  deriving DecidableEq, Repr

/-- Both output ports of a state (R41). -/
def State.reading (s : State) : Reading := ⟨s.statusPort, s.doutPort⟩

/-- The host presents a command, and the block takes it (R40). -/
def present (o : Offer) (s : State) : Result := step { s with inputs := .command o [] :: s.inputs }

/-- n steps of the machine, on the inputs the host has lined up in the state (R50). -/
def takeSteps : Nat → State → Result
  | 0, s => .next s
  | n + 1, s =>
    match step s with
    | .next t => takeSteps n t
    | .fault r => .fault r
    | .refused r => .refused r

/-- A run: the commands one after another (R50), with the host's reading after each (R143). -/
def runOffers : List Offer → State → Host.Outcome (State × List Reading) Fault Refusal
  | [], s => .next (s, [])
  | o :: os, s =>
    match present o s with
    | .next t =>
      match runOffers os t with
      | .next (u, rs) => .next (u, t.reading :: rs)
      | .fault r => .fault r
      | .refused r => .refused r
    | .fault r => .fault r
    | .refused r => .refused r

/-- Bytes [0 : min(32, L - 32j)) of the j-th reading of dout, for each j (R70, R124). -/
def keptBytes : Nat → List Reading → List Byte
  | _, [] => []
  | outLen, r :: rs => bytesOf r.dout (min 32 outLen) ++ keptBytes (outLen - 32) rs

/-- What the host keeps of a TAG or HASH run: the readings after its SQUEEZEs, which are the last ones (R135, R136). -/
def keptOutput (outLen : Nat) (rs : List Reading) : List Byte :=
  keptBytes outLen (rs.drop (rs.length - ceilDiv outLen 32))

end Sys2Proof.Machine
end

