-- ==== Sys2Proof/Machine/Timing.lean ====
section
/-! DEFINITION. Timing beside the step: how many Updates each command runs, and how many cycles it takes
(spec/70_reset_and_hazards.md R186 to R189). No time is in State, and no step depends on it (R180). -/

namespace Sys2Proof.Machine

/-! ### Update counts (R186) -/

/-- The number of Updates an executed command runs (R186). -/
def updatesOf : Instr → Nat
  | .initHash => 12
  | .initKey => 12
  | .absorb _ => 1
  | .endMsg => 1
  | .endCtx => 1
  | .final => 11
  | .squeeze => 1
  | .update => 1
  | .clear => 0

/-- The number of Updates the command of a word runs when it is executed; a word that is no command runs none (R186). -/
def updatesOfWord (w : CmdWord) : Nat :=
  match decode w with
  | .ok i => updatesOf i
  | .error _ => 0

/-- The words the Updates of an executed command start from (R85, R89). -/
def updatesFrom (i : Instr) (s : State) : Perm :=
  match i with
  | .initHash => permLoad 0 0
  | .initKey => permLoad (firstHalf s.din) (secondHalf s.din)
  | .clear => Perm.zeros
  | _ => s.regs.perm

/-- A block as the pair of words Update takes (R43). -/
def bothHalves (b : Block) : Word × Word := (firstHalf b, secondHalf b)

/-- The two message words of every Update an executed command runs: a command feeds one pair, as often as R186 says. -/
def updatesWith (i : Instr) (s : State) : Word × Word :=
  match i with
  | .initHash => (c0, c1)
  | .initKey => (c0, c1)
  | .absorb n => bothHalves (carrier s.regs.mode (chunkOf s.din n))
  | .endMsg => bothHalves (lengthBlock s.regs.len Domain.message.tag)
  | .endCtx => bothHalves (lengthBlock s.regs.len Domain.context.tag)
  | .final => (tweak s.regs.perm s.regs.ctxSeg s.regs.msgSeg, tweak s.regs.perm s.regs.ctxSeg s.regs.msgSeg)
  | .squeeze => (s.regs.t, s.regs.t)
  | .update => bothHalves s.din
  | .clear => (0, 0)

/-! ### Latencies (R187, R188) -/

/-- The latency parameters of R187. -/
inductive Latency where
  | init
  | absorb
  | endSegment
  | final
  | squeeze
  | update
  | clear
  | reject
  deriving DecidableEq, Repr

/-- The number under which Config holds a latency parameter. -/
def Latency.index : Latency → Nat
  | .init => 0
  | .absorb => 1
  | .endSegment => 2
  | .final => 3
  | .squeeze => 4
  | .update => 5
  | .clear => 6
  | .reject => 7

/-- LAT_*: at least 1 cycle, and finite; it may depend on the command word and on MODE (R187, R188). -/
def Latency.cycles (p : Latency) (w : CmdWord) (mode : Mode) : Nat :=
  1 + Config.extraCycles p.index w (decide (mode = .keyed))

/-- The parameter of an executed command (R187). -/
def latencyOf : Instr → Latency
  | .initHash => .init
  | .initKey => .init
  | .absorb _ => .absorb
  | .endMsg => .endSegment
  | .endCtx => .endSegment
  | .final => .final
  | .squeeze => .squeeze
  | .update => .update
  | .clear => .clear

/-- The block rejects the command when it is offered in `s`: REJ is 1 after it (R32). -/
def rejects (o : Offer) (s : State) : Bool :=
  match runCommand o [] s with
  | .next t => t.regs.rej
  | _ => false

/-- The cycles from the acceptance of a command to BUSY = 0 (R187). -/
def commandLatency (o : Offer) (s : State) : Nat :=
  match decode o.cmd with
  | .ok i => (if rejects o s then Latency.reject else latencyOf i).cycles o.cmd s.regs.mode
  | .error _ => Latency.reject.cycles o.cmd s.regs.mode

end Sys2Proof.Machine
end

