-- ==== Sys2Proof/Safety.lean ====
section
/-! DEFINITION. What the statements are said in: the invariant of spec/10_state.md R38, and which registers a command
may write (spec/10_state.md R21 to R33, R37). -/

namespace Sys2Proof.Machine

/-- The six invariants of R38. The sixth, PHASE ≠ 3 and ERR ∈ {0, .., 6}, is said of the codes STATUS shows; the types
of PHASE and ERR ensure it (log 12). -/
structure Regs.Inv (r : Regs) : Prop where
  partial_open : r.partialSeg = true → r.segOpen = true
  closed_empty : r.segOpen = false → r.len = 0
  squeeze_closed : r.phase = .squeeze → r.segOpen = false ∧ r.partialSeg = false ∧ r.len = 0
  unsqueezed_zero : r.phase ≠ .squeeze → r.t = 0 ∧ r.out = 0
  idle_zero : r.phase = .idle → r = { Regs.reset with err := r.err, rej := r.rej, busy := r.busy }
  codes_legal : r.phase.code ≠ 3 ∧ r.err.code ≤ 6

/-- The invariant of a state between commands: R38, BUSY = 0 (R33, R180), and nothing captured (log 4). -/
structure State.Inv (s : State) : Prop where
  regs : s.regs.Inv
  ready : s.regs.busy = false
  uncaptured : s.cmd = 0 ∧ s.din = 0

/-- A step that ends in a next state, never in a fault or a refusal. -/
def Continues (s : State) : Prop := ∃ t, step s = .next t

/-- The states a run can be in: reset with any host inputs to come, and every next state of a step. -/
inductive Reachable : State → Prop where
  | reset (inputs : List HostInput) : Reachable { State.reset with inputs := inputs }
  | next {s t : State} (reached : Reachable s) (taken : step s = .next t) : Reachable t

/-- `t` is `s` but for its registers: captured values, host inputs and capture counter are the same. -/
def SameOutside (s t : State) : Prop :=
  t.cmd = s.cmd ∧ t.din = s.din ∧ t.inputs = s.inputs ∧ t.captures = s.captures

/-- T and OUT, the registers only the finalizer's commands and INIT and CLEAR write (R23, R24), are the same. -/
def SameFinalizer (r r' : Regs) : Prop := r'.t = r.t ∧ r'.out = r.out

/-- The two segment counters (R25) are the same. -/
def SameCounters (r r' : Regs) : Prop := r'.ctxSeg = r.ctxSeg ∧ r'.msgSeg = r.msgSeg

/-- The bookkeeping of the open segment (R26, R28, R29) is the same. -/
def SameSegment (r r' : Regs) : Prop :=
  r'.len = r.len ∧ r'.segOpen = r.segOpen ∧ r'.partialSeg = r.partialSeg

/-- The phase a command needs, if it needs one (R150). -/
def neededPhase : Instr → Option Phase
  | .initHash => none
  | .initKey => none
  | .clear => none
  | .squeeze => some .squeeze
  | .absorb _ => some .absorb
  | .endMsg => some .absorb
  | .endCtx => some .absorb
  | .update => some .absorb
  | .final => some .absorb

/-- How many din bytes a command reads (R65). -/
def dinBytesRead : Instr → Nat
  | .initKey => 32
  | .absorb n => n
  | .update => 32
  | .initHash => 0
  | .endMsg => 0
  | .endCtx => 0
  | .final => 0
  | .squeeze => 0
  | .clear => 0

end Sys2Proof.Machine
end

