-- ==== Sys2Proof/Certificates/Slice0/Obligations.lean ====
section
/-! DEFINITION. The statements, each `def Obligations.<Name> : Prop`. There is no memory on this hardware
(spec/20_memory.md R46), so no statement speaks of one: a frame speaks of every register and of everything else in
State. -/

open Sys2Proof Sys2Proof.Machine

/-! ## Encoding -/

/-- R60: the words that decode are the listed ones and no others, and every other word is rejected, with OPCODE exactly
where its OP is reserved and with FIELD otherwise. -/
def Obligations.DecodeAcceptsExactlyTheLegalWords : Prop :=
  ∀ w : CmdWord,
    (∀ i : Instr, decode w = .ok i ↔
      match i with
      | .initHash => w = 0x00000001
      | .initKey => w = 0x00000011
      | .absorb n => n ≤ 63 ∧ w = 0x00000002 ||| (BitVec.ofNat 32 n <<< 8)
      | .endMsg => w = 0x00000003
      | .endCtx => w = 0x00000013
      | .final => w = 0x00000004
      | .squeeze => w = 0x00000005
      | .update => w = 0x00000006
      | .clear => w = 0x00000007) ∧
    (decode w = .error .opcode ↔ w.extractLsb' 0 4 = 0x0 ∨ 0x8 ≤ w.extractLsb' 0 4) ∧
    (decode w = .error .field ↔
      (w.extractLsb' 0 4 ≠ 0x0 ∧ w.extractLsb' 0 4 < 0x8) ∧ ∀ i : Instr, decode w ≠ .ok i)

/-- Decode and encode agree, both ways: a well-formed instruction is decoded from its own word and from no other, and
what is decoded is well-formed. -/
def Obligations.DecodeAndEncodeAgree : Prop :=
  (∀ i : Instr, i.wellFormed = true → decode (encode i) = .ok i) ∧
  (∀ (w : CmdWord) (i : Instr), decode w = .ok i → i.wellFormed = true ∧ encode i = w)

/-- R73: nine rows with nine mnemonics; no word selects two rows; a word selects the row of the command it decodes to;
a word that selects no row is rejected with OPCODE where OP is reserved and with FIELD otherwise. -/
def Obligations.OpcodeTableSelectsWhatDecodes : Prop :=
  opcodeTable.map OpcodeRow.mnemonic =
    ["INIT.HASH", "INIT.KEY", "ABSORB", "END.MSG", "END.CTX", "FINAL", "SQUEEZE", "UPDATE", "CLEAR"] ∧
  ∀ w : CmdWord,
    (∀ r ∈ opcodeTable, ∀ r' ∈ opcodeTable, w &&& r.mask = r.pattern → w &&& r'.mask = r'.pattern → r = r') ∧
    (∀ r ∈ opcodeTable, w &&& r.mask = r.pattern → ∃ i : Instr, decode w = .ok i ∧ i.row = r) ∧
    ((∀ r ∈ opcodeTable, w &&& r.mask ≠ r.pattern) →
      decode w =
        .error (if w.extractLsb' 0 4 = 0x0 ∨ 0x8 ≤ w.extractLsb' 0 4 then .opcode else .field))

/-- R72: the example words. -/
def Obligations.ExampleWordsDecode : Prop :=
  decode 0x00000011 = .ok .initKey ∧
  decode 0x00000302 = .ok (.absorb 3) ∧
  decode 0x00002002 = .ok (.absorb 32) ∧
  decode 0x00001002 = .ok (.absorb 16) ∧
  decode 0x00000013 = .ok .endCtx ∧
  decode 0x00000000 = .error .opcode ∧
  decode 0x0000000F = .error .opcode ∧
  decode 0x00000025 = .error .field ∧
  decode 0x00000015 = .error .field ∧
  decode 0x00000104 = .error .field ∧
  decode 0x00000012 = .error .field ∧
  decode 0x00004001 = .error .field ∧
  decode 0x00000002 = .ok (.absorb 0)

/-! ## The AES round and the permutation -/

/-- R77, R78: the table agrees with the algebraic definition entry for entry, and the inverse used there is the
multiplicative inverse, with 0 for 0. -/
def Obligations.SboxTableIsTheAlgebraicSbox : Prop :=
  (∀ a : Byte, gmul a (ginv a) = if a = 0 then 0 else 1) ∧ ginv 0 = 0 ∧
  (∀ a : Byte, sbox a =
    ginv a ^^^ (ginv a).rotateLeft 1 ^^^ (ginv a).rotateLeft 2 ^^^ (ginv a).rotateLeft 3 ^^^
      (ginv a).rotateLeft 4 ^^^ 0x63) ∧
  sbox 0x00 = 0x63 ∧ sbox 0x01 = 0x7c ∧ sbox 0xff = 0x16

/-- R80, R81, R82: SubBytes, ShiftRows and MixColumns byte by byte. R83: AESRound is these three in this order, on its
first argument, and then the xor with the second. -/
def Obligations.RoundStepsByteByByte : Prop :=
  (∀ x k : Word, aesRound x k = mixColumns (shiftRows (subBytes x)) ^^^ k) ∧
  ∀ w : Word,
    (∀ j, j < 16 → byteAt (subBytes w) j = sbox (byteAt w j)) ∧
    (∀ r c, r < 4 → c < 4 → byteAt (shiftRows w) (r + 4 * c) = byteAt w (r + 4 * ((c + r) % 4))) ∧
    bytesOf (shiftRows w) 16 = [0, 5, 10, 15, 4, 9, 14, 3, 8, 13, 2, 7, 12, 1, 6, 11].map (byteAt w) ∧
    (∀ c, c < 4 →
      byteAt (mixColumns w) (4 * c) =
        gmul2 (byteAt w (4 * c)) ^^^ gmul3 (byteAt w (4 * c + 1)) ^^^ byteAt w (4 * c + 2) ^^^
          byteAt w (4 * c + 3) ∧
      byteAt (mixColumns w) (4 * c + 1) =
        byteAt w (4 * c) ^^^ gmul2 (byteAt w (4 * c + 1)) ^^^ gmul3 (byteAt w (4 * c + 2)) ^^^
          byteAt w (4 * c + 3) ∧
      byteAt (mixColumns w) (4 * c + 2) =
        byteAt w (4 * c) ^^^ byteAt w (4 * c + 1) ^^^ gmul2 (byteAt w (4 * c + 2)) ^^^
          gmul3 (byteAt w (4 * c + 3)) ∧
      byteAt (mixColumns w) (4 * c + 3) =
        gmul3 (byteAt w (4 * c)) ^^^ byteAt w (4 * c + 1) ^^^ byteAt w (4 * c + 2) ^^^
          gmul2 (byteAt w (4 * c + 3)))

/-- R90: AESRound is linear in the key argument, and the message words enter Update only by xor, m0 in word 0 and m1
in word 4. -/
def Obligations.MessageWordsEnterByXor : Prop :=
  (∀ x k d : Word, aesRound x (k ^^^ d) = aesRound x k ^^^ d) ∧
  (∀ (s : Perm) (m0 m1 : Word),
    permUpdate s m0 m1 =
      { permUpdate s 0 0 with
        s0 := (permUpdate s 0 0).s0 ^^^ m0
        s4 := (permUpdate s 0 0).s4 ^^^ m1 })

/-- R91: the zero word and words of sixteen equal bytes. -/
def Obligations.RoundFixesWordsOfEqualBytes : Prop :=
  subBytes 0 = wordOfFn (fun _ => 0x63) ∧
  (∀ v : Byte, shiftRows (wordOfFn fun _ => v) = wordOfFn (fun _ => v) ∧
    mixColumns (wordOfFn fun _ => v) = wordOfFn (fun _ => v) ∧
    gmul2 v ^^^ gmul3 v ^^^ v ^^^ v = v) ∧
  aesRound 0 0 = wordOfFn (fun _ => 0x63) ∧
  permUpdate Perm.zeros 0 0 =
    ⟨wordOfFn fun _ => 0x63, wordOfFn fun _ => 0x63, wordOfFn fun _ => 0x63, wordOfFn fun _ => 0x63,
      wordOfFn fun _ => 0x63, wordOfFn fun _ => 0x63, wordOfFn fun _ => 0x63, wordOfFn fun _ => 0x63⟩

/-- R84: the eight new words, each from the pre-update values. -/
def Obligations.UpdateComputesEightWordsInParallel : Prop :=
  ∀ (s : Perm) (m0 m1 : Word),
    permUpdate s m0 m1 =
      ⟨aesRound s.s7 (s.s0 ^^^ m0), aesRound s.s0 s.s1, aesRound s.s1 s.s2, aesRound s.s2 s.s3,
        aesRound s.s3 (s.s4 ^^^ m1), aesRound s.s4 s.s5, aesRound s.s5 s.s6, aesRound s.s6 s.s7⟩

/-- R85: twelve Updates with (C0, C1) from the loaded key. -/
def Obligations.InitializeRunsTwelveUpdates : Prop :=
  ∀ k0 k1 : Word,
    permInit k0 k1 =
      (fun s => permUpdate s c0 c1)^[12] ⟨0, k1, k0 ^^^ c1, k0 ^^^ c0, 0, k0, k1 ^^^ c0, k1 ^^^ c1⟩

/-- R75: C0 is the first 16 Fibonacci numbers modulo 256, and C1 is the listed word. -/
def Obligations.RoundConstantsAreTheListedBytes : Prop :=
  bytesOf c0 16 = [0x00, 0x01, 0x01, 0x02, 0x03, 0x05, 0x08, 0x0d, 0x15, 0x22, 0x37, 0x59, 0x90, 0xe9, 0x79, 0x62] ∧
  bytesOf c0 16 = (List.range 16).map (fun i => BitVec.ofNat 8 (Nat.fib i)) ∧
  bytesOf c1 16 = [0xdb, 0x3d, 0x18, 0x55, 0x6d, 0xc2, 0x2f, 0xf1, 0x20, 0x11, 0x31, 0x42, 0x73, 0xb5, 0x28, 0xdd]

/-! ## Operands -/

/-- R42, R43: byte lanes, and the two halves of a 32-byte value. -/
def Obligations.ByteLanesAndHalves : Prop :=
  (∀ (b : Block) (i k : Nat), k < 8 → (byteAt b i).getLsbD k = b.getLsbD (8 * i + k)) ∧
  (∀ (bs : List Byte) (i : Nat), i < 32 → byteAt (ofBytes 256 bs) i = bs.getD i 0) ∧
  (∀ (b : Block) (i : Nat), i < 16 →
    byteAt (firstHalf b) i = byteAt b i ∧ byteAt (secondHalf b) i = byteAt b (16 + i)) ∧
  (∀ a b : Word, firstHalf (joinHalves a b) = a ∧ secondHalf (joinHalves a b) = b)

/-- R101, R102 at the rates of R100: the carriers of a chunk of N bytes of din, byte by byte. -/
def Obligations.CarriersPlaceTheChunk : Prop :=
  Mode.rate .keyed = 32 ∧ Mode.rate .keyless = 16 ∧
  (∀ (din : Block) (n j : Nat), 1 ≤ n → n ≤ 32 → j < 32 →
    byteAt (carrier .keyed (chunkOf din n)) j = if j < n then byteAt din j else 0) ∧
  (∀ (din : Block) (n j : Nat), 1 ≤ n → n ≤ 16 → j < 32 →
    byteAt (carrier .keyless (chunkOf din n)) j =
      if j < 8 then (if j < n then byteAt din j else 0)
      else if 16 ≤ j ∧ j < 24 then (if j - 8 < n then byteAt din (j - 8) else 0)
      else 0)

/-- R103 with the wrap of R106: the length block byte by byte. -/
def Obligations.LengthBlockByteByByte : Prop :=
  Domain.tag .message = 0x00 ∧ Domain.tag .context = 0x80 ∧
  ∀ (len : Counter) (tag : Byte) (j : Nat), j < 32 →
    byteAt (lengthBlock len tag) j =
      if j < 8 then BitVec.ofNat 8 (len.toNat * 8 % 2 ^ 64 / 256 ^ j)
      else if j = 31 then tag
      else 0

/-- R120: the counter block byte by byte, and the tweak. -/
def Obligations.TweakEncodesSegmentsTimesEight : Prop :=
  ∀ (s : Perm) (ctx msg : Counter),
    tweak s ctx msg = s.s2 ^^^ counterBlock ctx msg ∧
    (∀ j, j < 8 → byteAt (counterBlock ctx msg) j = BitVec.ofNat 8 (ctx.toNat * 8 % 2 ^ 64 / 256 ^ j)) ∧
    (∀ j, j < 8 → byteAt (counterBlock ctx msg) (8 + j) = BitVec.ofNat 8 (msg.toNat * 8 % 2 ^ 64 / 256 ^ j))

/-- R123: the extraction byte by byte. -/
def Obligations.ExtractionByteByByte : Prop :=
  ∀ (s : Perm) (j : Nat), j < 16 →
    byteAt (extract s) j =
      byteAt s.s1 j ^^^ byteAt s.s6 j ^^^ (byteAt s.s2 j &&& byteAt s.s3 j) ∧
    byteAt (extract s) (16 + j) =
      byteAt s.s2 j ^^^ byteAt s.s5 j ^^^ (byteAt s.s6 j &&& byteAt s.s7 j)

/-! ## STATUS and reset -/

/-- R34: every field of STATUS, the reserved bits, the values never read, and the reset value; while BUSY = 1 bit 5
reads 1. -/
def Obligations.StatusFieldsReadTheRegisters : Prop :=
  (∀ r : Regs,
    r.status.extractLsb' 0 2 = r.phase.code ∧ r.status.extractLsb' 2 1 = r.mode.code ∧
    r.status.getLsbD 3 = r.segOpen ∧ r.status.getLsbD 4 = r.partialSeg ∧ r.status.getLsbD 5 = r.busy ∧
    r.status.getLsbD 6 = r.rej ∧ r.status.getLsbD 7 = false ∧ r.status.extractLsb' 8 4 = r.err.code ∧
    r.status.extractLsb' 12 20 = 0 ∧ r.status.extractLsb' 0 2 ≠ 3 ∧ r.status.extractLsb' 8 4 ≤ 6) ∧
  Regs.reset.status = 0x00000000 ∧
  (∀ s : State, s.regs.busy = false → s.statusPort = s.regs.status) ∧
  (∀ s : State, s.regs.busy = true → s.statusPort.getLsbD 5 = true)

/-- R175: what reset leaves, at the start and whenever the host resets the block between commands; after it STATUS is 0,
dout is zero and the block is ready; the registers equal those after a CLEAR has completed. -/
def Obligations.ResetLeavesEveryRegisterZero : Prop :=
  State.reset.regs =
    { perm := ⟨0, 0, 0, 0, 0, 0, 0, 0⟩, t := 0, out := 0, ctxSeg := 0, msgSeg := 0, len := 0, mode := .keyless,
      phase := .idle, segOpen := false, partialSeg := false, err := .none, rej := false, busy := false } ∧
  (∀ (s : State) (rest : List HostInput), s.regs.busy = false → s.inputs = .reset :: rest →
    ∃ t, step s = .next t ∧ t.regs = State.reset.regs ∧ t.inputs = rest ∧
      t.statusPort = 0 ∧ t.doutPort = 0 ∧ t.cmdReady = true) ∧
  (∀ (s : State) (din : Block), s.regs.busy = false →
    ∃ t, present ⟨0x00000007, din⟩ s = .next t ∧ t.regs = State.reset.regs)

/-- R185: a reset while the command is in the block abandons it, whatever the command was. -/
def Obligations.ResetAbandonsTheCommandInProgress : Prop :=
  ∀ (s : State) (o : Offer) (rest : List HostInput),
    s.regs.busy = false → s.inputs = .commandCutByReset o :: rest →
    ∃ t, step s = .next t ∧ t.regs = State.reset.regs ∧ t.inputs = rest

/-! ## The command port and the step -/

/-- A step runs the decoded command: when the host holds a command and the block is ready, the step captures it
(BUSY <- 1), runs `exec` of the decoded instruction, and completes (BUSY <- 0); a word that does not decode is rejected
with its code (R40, R60, R151, R180). Two things in it are the model's choice: that completion drops the captured values
(log 4), and the whole last clause, that `withFetchWord` places the word before all other inputs with the state's own din
and sets BUSY to 0, so that the next step runs it (log 3). -/
def Obligations.StepRunsTheDecodedCommand : Prop :=
  (∀ (s : State) (o : Offer) (rest : List HostInput), s.regs.busy = false → s.inputs = .command o [] :: rest →
    (∀ i, decode o.cmd = .ok i → step s = onNext State.retire (exec i (s.accept o rest))) ∧
    (∀ why, decode o.cmd = .error why →
      step s = .next ((s.accept o rest).reject (rejectCode why)).retire)) ∧
  (∀ (s : State) (w : CmdWord) (i : Instr), decode w = .ok i →
    step (s.withFetchWord 32 w.toNat) =
      onNext State.retire (exec i ((s.withFetchWord 32 w.toNat).accept ⟨w, s.din⟩ s.inputs)))

/-- R40: what acceptance captures. The block is ready exactly when BUSY = 0, and while it is not ready the commands the
host presents wait. (That a step from BUSY = 1 completes the command in the block is the model's choice, log 5.) -/
def Obligations.AcceptanceCapturesCommandAndData : Prop :=
  (∀ s : State, s.cmdReady = !s.regs.busy) ∧
  (∀ (s : State) (o : Offer) (rest : List HostInput),
    s.accept o rest =
      { regs := { s.regs with busy := true }, cmd := o.cmd, din := o.din, inputs := rest,
        captures := s.captures + 1 }) ∧
  (∀ s : State, s.regs.busy = true → ∃ t, step s = .next t ∧ t.inputs = s.inputs ∧ t.cmdReady = true)

/-- R181: the command taken is one of the values presented, and the one presented where the host holds it stable. -/
def Obligations.CapturedCommandIsOnePresented : Prop :=
  ∀ (s : State) (first : Offer) (later : List Offer) (rest : List HostInput),
    s.regs.busy = false → s.inputs = .command first later :: rest →
    (∃ o ∈ first :: later, step s = runCommand o rest s) ∧
    (later = [] → step s = runCommand first rest s)

/-- R179 and R164: a command withdrawn before acceptance has no effect, and with no input the block holds its state. -/
def Obligations.NothingAcceptedChangesNothing : Prop :=
  (∀ (s : State) (o : Offer) (rest : List HostInput), s.regs.busy = false → s.inputs = .withdrawn o :: rest →
    step s = .next { s with inputs := rest }) ∧
  (∀ s : State, s.regs.busy = false → s.inputs = [] → step s = .next s)

/-- R33, R180: BUSY is 0 after every step, from every state. -/
def Obligations.BusyIsZeroAfterEveryStep : Prop :=
  ∀ s t : State, step s = .next t → t.regs.busy = false

/-- R189, R143: every step ends in a next state, and from every state, whatever phase or error it is in, INIT.KEY,
INIT.HASH and CLEAR are executed and clear the error. -/
def Obligations.TheBlockNeverStops : Prop :=
  (∀ s : State, Continues s) ∧
  (∀ (s : State) (din : Block) (w : CmdWord), s.regs.busy = false →
    w = 0x00000001 ∨ w = 0x00000011 ∨ w = 0x00000007 →
    ∃ t, present ⟨w, din⟩ s = .next t ∧ t.regs.err = .none ∧ t.regs.rej = false)

/-- R50: commands the host has lined up are accepted in their order, each completing before the next. After k steps
exactly the first k of them are taken, BUSY is 0, and the registers are those of presenting these k one after another;
the readings are those of the k states passed through. (That a step is one act of the host is the model's choice,
log 2.) -/
def Obligations.RunsComposeLeftToRight : Prop :=
  ∀ (os : List Offer) (rest : List HostInput) (s : State), s.regs.busy = false →
    s.inputs = os.map (HostInput.command · []) ++ rest →
    ∀ k, k ≤ os.length → ∃ t u rs,
      takeSteps k s = .next t ∧ t.inputs = (os.drop k).map (HostInput.command · []) ++ rest ∧ t.regs.busy = false ∧
      runOffers (os.take k) s = .next (u, rs) ∧ t.regs = u.regs ∧
      ∀ j, j < k → ∃ v, takeSteps (j + 1) s = .next v ∧ rs[j]? = some v.reading

/-! ## The commands -/

/-- R86: INIT.KEY, in every phase and with any ERR. -/
def Obligations.InitKeyStartsKeyedComputation : Prop :=
  decode 0x00000011 = .ok .initKey ∧
  ∀ s : State,
    exec .initKey s = .next { s with
      regs :=
        { perm := permInit (firstHalf s.din) (secondHalf s.din), t := 0, out := 0, ctxSeg := 0, msgSeg := 0, len := 0,
          mode := .keyed, phase := .absorb, segOpen := false, partialSeg := false, err := .none, rej := false,
          busy := s.regs.busy } } ∧
    (s.regs.busy = false → ∀ t, exec .initKey s = .next t → t.regs.status = 0x00000005) ∧
    (s.din = 0 → ∀ t u, exec .initKey s = .next t → exec .initHash s = .next u →
      t.regs = { u.regs with mode := .keyed })

/-- R87: INIT.HASH, in every phase and with any ERR; din is ignored. -/
def Obligations.InitHashStartsKeylessComputation : Prop :=
  decode 0x00000001 = .ok .initHash ∧
  ∀ s : State,
    exec .initHash s = .next { s with
      regs :=
        { perm := permInit 0 0, t := 0, out := 0, ctxSeg := 0, msgSeg := 0, len := 0,
          mode := .keyless, phase := .absorb, segOpen := false, partialSeg := false, err := .none, rej := false,
          busy := s.regs.busy } } ∧
    (s.regs.busy = false → ∀ t, exec .initHash s = .next t → t.regs.status = 0x00000001)

/-- R89: CLEAR, in every phase and with any ERR. -/
def Obligations.ClearZeroizesEveryRegister : Prop :=
  decode 0x00000007 = .ok .clear ∧
  ∀ s : State,
    exec .clear s = .next { s with
      regs :=
        { perm := ⟨0, 0, 0, 0, 0, 0, 0, 0⟩, t := 0, out := 0, ctxSeg := 0, msgSeg := 0, len := 0, mode := .keyless,
          phase := .idle, segOpen := false, partialSeg := false, err := .none, rej := false, busy := s.regs.busy } } ∧
    (s.regs.busy = false → ∀ t, exec .clear s = .next t → t.regs.status = 0x00000000 ∧ t.regs = State.reset.regs)

/-- R88: UPDATE executes with ERR = 0 in phase ABSORB, and is otherwise rejected: silently while ERR ≠ 0, and with PHASE
in another phase. -/
def Obligations.UpdateAppliesOneRawUpdate : Prop :=
  decode 0x00000006 = .ok .update ∧
  ∀ s : State,
    (s.regs.err = .none → s.regs.phase = .absorb →
      exec .update s = .next { s with
        regs := { s.regs with perm := permUpdate s.regs.perm (firstHalf s.din) (secondHalf s.din), rej := false } }) ∧
    (s.regs.err ≠ .none → exec .update s = .next { s with regs := { s.regs with rej := true } }) ∧
    (s.regs.err = .none → s.regs.phase ≠ .absorb →
      exec .update s = .next { s with regs := { s.regs with err := .phase, rej := true } })

/-- R107: ABSORB N executes with ERR = 0, in phase ABSORB, for 1 ≤ N ≤ rate and PARTIAL = 0; otherwise the first check
that fails, in the rule's order, rejects it. -/
def Obligations.AbsorbFeedsOneChunk : Prop :=
  (∀ n, n < 64 → decode (0x00000002 ||| (BitVec.ofNat 32 n <<< 8)) = .ok (.absorb n)) ∧
  ∀ (n : Nat) (s : State),
    (s.regs.err = .none → s.regs.phase = .absorb → 1 ≤ n → n ≤ s.regs.mode.rate → s.regs.partialSeg = false →
      exec (.absorb n) s = .next { s with
        regs := { s.regs with
          perm := permUpdate s.regs.perm (firstHalf (carrier s.regs.mode (chunkOf s.din n)))
            (secondHalf (carrier s.regs.mode (chunkOf s.din n)))
          len := BitVec.ofNat 64 ((s.regs.len.toNat + n) % 2 ^ 64)
          segOpen := true
          partialSeg := decide (n < s.regs.mode.rate)
          rej := false } }) ∧
    (s.regs.err ≠ .none → exec (.absorb n) s = .next { s with regs := { s.regs with rej := true } }) ∧
    (s.regs.err = .none → s.regs.phase ≠ .absorb →
      exec (.absorb n) s = .next { s with regs := { s.regs with err := .phase, rej := true } }) ∧
    (s.regs.err = .none → s.regs.phase = .absorb → n = 0 ∨ s.regs.mode.rate < n →
      exec (.absorb n) s = .next { s with regs := { s.regs with err := .length, rej := true } }) ∧
    (s.regs.err = .none → s.regs.phase = .absorb → 1 ≤ n → n ≤ s.regs.mode.rate → s.regs.partialSeg = true →
      exec (.absorb n) s = .next { s with regs := { s.regs with err := .partialChunk, rej := true } })

/-- R108: END.MSG executes with ERR = 0 in phase ABSORB, also on an empty segment; otherwise it is rejected. -/
def Obligations.EndMsgClosesMessageSegment : Prop :=
  decode 0x00000003 = .ok .endMsg ∧
  ∀ s : State,
    (s.regs.err = .none → s.regs.phase = .absorb →
      exec .endMsg s = .next { s with
        regs := { s.regs with
          perm := permUpdate s.regs.perm (firstHalf (lengthBlock s.regs.len 0x00))
            (secondHalf (lengthBlock s.regs.len 0x00))
          msgSeg := BitVec.ofNat 64 ((s.regs.msgSeg.toNat + 1) % 2 ^ 64)
          len := 0
          segOpen := false
          partialSeg := false
          rej := false } }) ∧
    (s.regs.err ≠ .none → exec .endMsg s = .next { s with regs := { s.regs with rej := true } }) ∧
    (s.regs.err = .none → s.regs.phase ≠ .absorb →
      exec .endMsg s = .next { s with regs := { s.regs with err := .phase, rej := true } })

/-- R109: END.CTX executes with ERR = 0 in phase ABSORB, also on an empty segment; otherwise it is rejected. -/
def Obligations.EndCtxClosesContextSegment : Prop :=
  decode 0x00000013 = .ok .endCtx ∧
  ∀ s : State,
    (s.regs.err = .none → s.regs.phase = .absorb →
      exec .endCtx s = .next { s with
        regs := { s.regs with
          perm := permUpdate s.regs.perm (firstHalf (lengthBlock s.regs.len 0x80))
            (secondHalf (lengthBlock s.regs.len 0x80))
          ctxSeg := BitVec.ofNat 64 ((s.regs.ctxSeg.toNat + 1) % 2 ^ 64)
          len := 0
          segOpen := false
          partialSeg := false
          rej := false } }) ∧
    (s.regs.err ≠ .none → exec .endCtx s = .next { s with regs := { s.regs with rej := true } }) ∧
    (s.regs.err = .none → s.regs.phase ≠ .absorb →
      exec .endCtx s = .next { s with regs := { s.regs with err := .phase, rej := true } })

/-- R121: FINAL executes with ERR = 0 in phase ABSORB and no open segment; otherwise it is rejected, with PHASE before
OPEN. The tweak is computed once, from S[2] before the first diffusion round. -/
def Obligations.FinalDiffusesWithTheTweak : Prop :=
  decode 0x00000004 = .ok .final ∧
  ∀ s : State,
    (s.regs.err = .none → s.regs.phase = .absorb → s.regs.segOpen = false →
      exec .final s = .next { s with
        regs := { s.regs with
          perm := (fun p => permUpdate p (s.regs.perm.s2 ^^^ counterBlock s.regs.ctxSeg s.regs.msgSeg)
            (s.regs.perm.s2 ^^^ counterBlock s.regs.ctxSeg s.regs.msgSeg))^[11] s.regs.perm
          t := s.regs.perm.s2 ^^^ counterBlock s.regs.ctxSeg s.regs.msgSeg
          phase := .squeeze
          rej := false } }) ∧
    (s.regs.err ≠ .none → exec .final s = .next { s with regs := { s.regs with rej := true } }) ∧
    (s.regs.err = .none → s.regs.phase ≠ .absorb →
      exec .final s = .next { s with regs := { s.regs with err := .phase, rej := true } }) ∧
    (s.regs.err = .none → s.regs.phase = .absorb → s.regs.segOpen = true →
      exec .final s = .next { s with regs := { s.regs with err := .openSegment, rej := true } })

/-- R122: SQUEEZE executes with ERR = 0 in phase SQUEEZE; otherwise it is rejected. The extraction is from the words
after the Update. -/
def Obligations.SqueezeUpdatesThenExtracts : Prop :=
  decode 0x00000005 = .ok .squeeze ∧
  ∀ s : State,
    (s.regs.err = .none → s.regs.phase = .squeeze →
      exec .squeeze s = .next { s with
        regs := { s.regs with
          perm := permUpdate s.regs.perm s.regs.t s.regs.t
          out := extract (permUpdate s.regs.perm s.regs.t s.regs.t)
          rej := false } }) ∧
    (s.regs.err ≠ .none → exec .squeeze s = .next { s with regs := { s.regs with rej := true } }) ∧
    (s.regs.err = .none → s.regs.phase ≠ .squeeze →
      exec .squeeze s = .next { s with regs := { s.regs with err := .phase, rej := true } })

/-! ## Rejection -/

/-- R152: a command whose REJ is 1 afterwards has changed nothing but ERR and REJ, and ERR only while it was 0, to a
code that is not 0. -/
def Obligations.RejectionChangesOnlyErrAndRej : Prop :=
  ∀ s t : State, runCaptured s = .next t → t.regs.rej = true →
    t = { s with regs := { s.regs with err := t.regs.err, rej := true } } ∧
    (s.regs.err ≠ .none → t.regs.err = s.regs.err) ∧
    (s.regs.err = .none → t.regs.err ≠ .none)

/-- R150, R151: the codes, and the checks in order: decode, lock, PHASE, OPEN for FINAL, LENGTH and then PARTIAL for
ABSORB. The first that fails gives the code; a command that passes them all is executed. -/
def Obligations.FirstFailingCheckDecides : Prop :=
  (ErrCode.code .none = 0 ∧ ErrCode.code .opcode = 1 ∧ ErrCode.code .field = 2 ∧ ErrCode.code .phase = 3 ∧
    ErrCode.code .length = 4 ∧ ErrCode.code .partialChunk = 5 ∧ ErrCode.code .openSegment = 6 ∧
    ∀ e : ErrCode, e.code ≤ 6) ∧
  ∀ s : State,
    (∀ why, decode s.cmd = .error why → ∃ t, runCaptured s = .next t ∧ t.regs.rej = true ∧
      (s.regs.err = .none → t.regs.err = match why with | .opcode => .opcode | .field => .field) ∧
      (s.regs.err ≠ .none → t.regs.err = s.regs.err)) ∧
    (∀ i, decode s.cmd = .ok i → ∃ t, runCaptured s = .next t ∧
      (if neededPhase i = none then t.regs.rej = false
      else if s.regs.err ≠ .none then t.regs.rej = true ∧ t.regs.err = s.regs.err
      else if neededPhase i ≠ some s.regs.phase then t.regs.rej = true ∧ t.regs.err = .phase
      else match i with
        | .final => if s.regs.segOpen = true then t.regs.rej = true ∧ t.regs.err = .openSegment else t.regs.rej = false
        | .absorb n =>
          if n = 0 ∨ s.regs.mode.rate < n then t.regs.rej = true ∧ t.regs.err = .length
          else if s.regs.partialSeg = true then t.regs.rej = true ∧ t.regs.err = .partialChunk
          else t.regs.rej = false
        | _ => t.regs.rej = false))

/-- R153: while ERR ≠ 0, in any run of words none of which is a well-formed INIT.KEY, INIT.HASH or CLEAR, every command
is rejected, ERR keeps its value, and no output changes. -/
def Obligations.LockedBlockGivesNoOutput : Prop :=
  ∀ (os : List Offer) (s : State), s.regs.busy = false → s.regs.err ≠ .none →
    (∀ o ∈ os, o.cmd ≠ 0x00000001 ∧ o.cmd ≠ 0x00000011 ∧ o.cmd ≠ 0x00000007) →
    ∃ t rs, runOffers os s = .next (t, rs) ∧ t.regs = { s.regs with rej := t.regs.rej } ∧
      ∀ r ∈ rs, r.dout = s.regs.out ∧ r.status = { s.regs with rej := true }.status

/-- R139: a run of commands other than INIT.KEY, INIT.HASH and CLEAR that ends with ERR = 0 has had every one of its
commands executed. -/
def Obligations.NoErrorMeansEveryCommandExecuted : Prop :=
  ∀ (os : List Offer) (s t : State) (rs : List Reading), s.regs.busy = false →
    (∀ o ∈ os, ∀ i, decode o.cmd = .ok i → startsAfresh i = false) →
    runOffers os s = .next (t, rs) → t.regs.err = .none →
    ∀ r ∈ rs, r.status.getLsbD 6 = false ∧ r.status.extractLsb' 8 4 = 0

/-! ## Frames -/

/-- ABSORB and UPDATE, executed or rejected, write no register but S, ERR, REJ and, for ABSORB, LEN, SEGOPEN and PARTIAL;
nothing outside the registers changes. -/
def Obligations.AbsorbAndUpdateFrame : Prop :=
  ∀ s t : State,
    (∀ n, exec (.absorb n) s = .next t →
      SameOutside s t ∧ SameFinalizer s.regs t.regs ∧ SameCounters s.regs t.regs ∧ t.regs.mode = s.regs.mode ∧
      t.regs.phase = s.regs.phase ∧ t.regs.busy = s.regs.busy) ∧
    (exec .update s = .next t →
      SameOutside s t ∧ SameFinalizer s.regs t.regs ∧ SameCounters s.regs t.regs ∧ SameSegment s.regs t.regs ∧
      t.regs.mode = s.regs.mode ∧ t.regs.phase = s.regs.phase ∧ t.regs.busy = s.regs.busy)

/-- END.MSG and END.CTX, executed or rejected, write no register but S, LEN, SEGOPEN, PARTIAL, ERR, REJ and their own
counter; nothing outside the registers changes. -/
def Obligations.EndFrame : Prop :=
  ∀ s t : State,
    (exec .endMsg s = .next t →
      SameOutside s t ∧ SameFinalizer s.regs t.regs ∧ t.regs.ctxSeg = s.regs.ctxSeg ∧ t.regs.mode = s.regs.mode ∧
      t.regs.phase = s.regs.phase ∧ t.regs.busy = s.regs.busy) ∧
    (exec .endCtx s = .next t →
      SameOutside s t ∧ SameFinalizer s.regs t.regs ∧ t.regs.msgSeg = s.regs.msgSeg ∧ t.regs.mode = s.regs.mode ∧
      t.regs.phase = s.regs.phase ∧ t.regs.busy = s.regs.busy)

/-- FINAL writes no register but S, T, PHASE, ERR and REJ, and SQUEEZE none but S, OUT, ERR and REJ, executed or
rejected; nothing outside the registers changes. -/
def Obligations.FinalizerFrame : Prop :=
  ∀ s t : State,
    (exec .final s = .next t →
      SameOutside s t ∧ t.regs.out = s.regs.out ∧ SameCounters s.regs t.regs ∧ SameSegment s.regs t.regs ∧
      t.regs.mode = s.regs.mode ∧ t.regs.busy = s.regs.busy) ∧
    (exec .squeeze s = .next t →
      SameOutside s t ∧ t.regs.t = s.regs.t ∧ SameCounters s.regs t.regs ∧ SameSegment s.regs t.regs ∧
      t.regs.mode = s.regs.mode ∧ t.regs.phase = s.regs.phase ∧ t.regs.busy = s.regs.busy)

/-- INIT.HASH, INIT.KEY and CLEAR write every register but BUSY, and nothing outside the registers. -/
def Obligations.InitAndClearFrame : Prop :=
  ∀ s t : State, exec .initHash s = .next t ∨ exec .initKey s = .next t ∨ exec .clear s = .next t →
    SameOutside s t ∧ t.regs.busy = s.regs.busy

/-- R37: what each executed command writes of the flags, and that a rejected one (a word that does not decode is
always rejected) writes only REJ and, when ERR = 0, ERR, which is then not 0. -/
def Obligations.FlagWritesFollowTheTable : Prop :=
  (∀ (s t : State) (why : DecodeReject), decode s.cmd = .error why → runCaptured s = .next t →
    t.regs.mode = s.regs.mode ∧ t.regs.segOpen = s.regs.segOpen ∧ t.regs.partialSeg = s.regs.partialSeg ∧
      t.regs.rej = true ∧ (s.regs.err ≠ .none → t.regs.err = s.regs.err) ∧
      (s.regs.err = .none → t.regs.err ≠ .none)) ∧
  ∀ (i : Instr) (s t : State), exec i s = .next t →
    (t.regs.rej = true →
      t.regs.mode = s.regs.mode ∧ t.regs.segOpen = s.regs.segOpen ∧ t.regs.partialSeg = s.regs.partialSeg ∧
      (s.regs.err ≠ .none → t.regs.err = s.regs.err) ∧ (s.regs.err = .none → t.regs.err ≠ .none)) ∧
    (t.regs.rej = false →
      match i with
      | .initKey => t.regs.mode = .keyed ∧ t.regs.segOpen = false ∧ t.regs.partialSeg = false ∧ t.regs.err = .none
      | .initHash => t.regs.mode = .keyless ∧ t.regs.segOpen = false ∧ t.regs.partialSeg = false ∧ t.regs.err = .none
      | .absorb n => t.regs.mode = s.regs.mode ∧ t.regs.segOpen = true ∧
          t.regs.partialSeg = decide (n < s.regs.mode.rate) ∧ t.regs.err = s.regs.err
      | .endMsg => t.regs.mode = s.regs.mode ∧ t.regs.segOpen = false ∧ t.regs.partialSeg = false ∧
          t.regs.err = s.regs.err
      | .endCtx => t.regs.mode = s.regs.mode ∧ t.regs.segOpen = false ∧ t.regs.partialSeg = false ∧
          t.regs.err = s.regs.err
      | .clear => t.regs.mode = .keyless ∧ t.regs.segOpen = false ∧ t.regs.partialSeg = false ∧ t.regs.err = .none
      | _ => t.regs.mode = s.regs.mode ∧ t.regs.segOpen = s.regs.segOpen ∧ t.regs.partialSeg = s.regs.partialSeg ∧
          t.regs.err = s.regs.err)

/-- R30: the codes of PHASE, and every transition: a rejected command leaves PHASE; CLEAR goes to IDLE and INIT to
ABSORB from any phase; ABSORB, END and UPDATE stay in ABSORB; FINAL goes from ABSORB, with SEGOPEN = 0, to SQUEEZE;
SQUEEZE stays in SQUEEZE; reset goes to IDLE. -/
def Obligations.PhaseTransitionsFollowTheTable : Prop :=
  (Phase.code .idle = 0 ∧ Phase.code .absorb = 1 ∧ Phase.code .squeeze = 2 ∧ ∀ p : Phase, p.code ≠ 3) ∧
  (∀ (i : Instr) (s t : State), exec i s = .next t →
    (t.regs.rej = true → t.regs.phase = s.regs.phase) ∧
    (t.regs.rej = false →
      match i with
      | .clear => t.regs.phase = .idle
      | .initKey => t.regs.phase = .absorb
      | .initHash => t.regs.phase = .absorb
      | .final => s.regs.phase = .absorb ∧ s.regs.segOpen = false ∧ t.regs.phase = .squeeze
      | .squeeze => s.regs.phase = .squeeze ∧ t.regs.phase = .squeeze
      | _ => s.regs.phase = .absorb ∧ t.regs.phase = .absorb)) ∧
  (∀ (s t : State) (why : DecodeReject), decode s.cmd = .error why → runCaptured s = .next t →
    t.regs.phase = s.regs.phase) ∧
  (∀ s : State, s.hardReset.regs.phase = .idle)

/-! ## Invariants -/

/-- The invariant holds at reset. -/
def Obligations.ResetMeetsTheInvariant : Prop := State.reset.Inv

/-- Every step keeps the invariant: the six clauses of R38, BUSY = 0, and nothing captured (the last is the model's own
convention, log 4). -/
def Obligations.EveryStepKeepsTheInvariant : Prop :=
  ∀ s t : State, s.Inv → step s = .next t → t.Inv

/-- R38: in every state reachable from reset, whatever the host does, the six invariants hold between commands. -/
def Obligations.ReachableStatesMeetTheSixInvariants : Prop :=
  ∀ t : State, Reachable t →
    (t.regs.partialSeg = true → t.regs.segOpen = true) ∧
    (t.regs.segOpen = false → t.regs.len = 0) ∧
    (t.regs.phase = .squeeze → t.regs.segOpen = false ∧ t.regs.partialSeg = false ∧ t.regs.len = 0) ∧
    (t.regs.phase ≠ .squeeze → t.regs.t = 0 ∧ t.regs.out = 0) ∧
    (t.regs.phase = .idle →
      t.regs.perm = ⟨0, 0, 0, 0, 0, 0, 0, 0⟩ ∧ t.regs.t = 0 ∧ t.regs.out = 0 ∧ t.regs.ctxSeg = 0 ∧ t.regs.msgSeg = 0 ∧
      t.regs.len = 0 ∧ t.regs.mode = .keyless ∧ t.regs.segOpen = false ∧ t.regs.partialSeg = false) ∧
    (t.regs.phase.code ≠ 3 ∧ t.regs.err.code ≤ 6)

/-! ## Isolation -/

/-- R65: ignored din bytes have no effect of any kind: with another din that agrees on the bytes read, the same command
answers the same state, but for din itself. -/
def Obligations.IgnoredDinBytesHaveNoEffect : Prop :=
  ∀ (i : Instr) (s : State) (d : Block), (∀ j, j < dinBytesRead i → byteAt d j = byteAt s.din j) →
    exec i { s with din := d } = onNext (fun t => { t with din := d }) (exec i s)

/-- R177: after INIT.KEY or INIT.HASH everything the host reads, and every register, is the same whatever state the
block was in before. -/
def Obligations.InitForgetsTheEarlierComputation : Prop :=
  ∀ (first : Offer) (os : List Offer) (s s' : State), s.regs.busy = false → s'.regs.busy = false →
    decode first.cmd = .ok .initKey ∨ decode first.cmd = .ok .initHash →
    ∃ t t' rs, runOffers (first :: os) s = .next (t, rs) ∧ runOffers (first :: os) s' = .next (t', rs) ∧
      t.regs = t'.regs

/-- R24, R182: dout changes only by an executed SQUEEZE, INIT.KEY, INIT.HASH or CLEAR. -/
def Obligations.DoutHoldsUntilACommandChangesOut : Prop :=
  ∀ (o : Offer) (s t : State), s.regs.busy = false → present o s = .next t →
    t.doutPort = s.doutPort ∨ decode o.cmd = .ok .initHash ∨ decode o.cmd = .ok .initKey ∨ decode o.cmd = .ok .clear ∨
      (decode o.cmd = .ok .squeeze ∧ t.regs.rej = false)

/-! ## Update counts and timing -/

/-- R186: the number of Updates each command runs; an executed command's S is that many Updates of the words it starts
from, and a rejected command runs none. -/
def Obligations.UpdateCountsFollowTheTable : Prop :=
  (updatesOf .initKey = 12 ∧ updatesOf .initHash = 12 ∧ (∀ n, updatesOf (.absorb n) = 1) ∧ updatesOf .endMsg = 1 ∧
    updatesOf .endCtx = 1 ∧ updatesOf .final = 11 ∧ updatesOf .squeeze = 1 ∧ updatesOf .update = 1 ∧
    updatesOf .clear = 0) ∧
  ∀ (i : Instr) (s t : State), exec i s = .next t →
    (t.regs.rej = false →
      t.regs.perm =
        (fun p => permUpdate p (updatesWith i s).1 (updatesWith i s).2)^[updatesOf i] (updatesFrom i s)) ∧
    (t.regs.rej = true → t.regs.perm = s.regs.perm)

/-- R187, R188: every latency is at least 1, and it is the same for two commands with the same word, in states with the
same MODE, PHASE, SEGOPEN, PARTIAL and ERR: it depends on no data. -/
def Obligations.LatencyDependsOnNoData : Prop :=
  (∀ (o : Offer) (s : State), 1 ≤ commandLatency o s) ∧
  (∀ (o o' : Offer) (s s' : State), o.cmd = o'.cmd → s.regs.mode = s'.regs.mode → s.regs.phase = s'.regs.phase →
    s.regs.segOpen = s'.regs.segOpen → s.regs.partialSeg = s'.regs.partialSeg → s.regs.err = s'.regs.err →
    commandLatency o s = commandLatency o' s')

/-! ## The host's sequences -/

/-- R110: a segment of L bytes takes ceil(L / r) ABSORB commands and one END, so ceil(L / r) + 1 Updates. -/
def Obligations.SegmentCommandCounts : Prop :=
  ∀ (mode : Mode) (d : Domain) (x : List Byte),
    (absorbSeg mode d x).length = (x.length + mode.rate - 1) / mode.rate + 1 ∧
    (∀ o ∈ (absorbSeg mode d x).dropLast, ∃ n, 1 ≤ n ∧ n ≤ mode.rate ∧ decode o.cmd = .ok (.absorb n)) ∧
    (absorbSeg mode d x).getLast? = some ⟨encode (endOf d), 0⟩ ∧
    ((absorbSeg mode d x).map fun o => updatesOfWord o.cmd).sum =
      (x.length + mode.rate - 1) / mode.rate + 1

/-- R127: the finalizer runs 11 + ceil(L / 32) Updates for L output bytes. -/
def Obligations.FinalizerUpdateCounts : Prop :=
  ∀ outLen : Nat,
    (squeezeN outLen).length = (outLen + 31) / 32 ∧
    ((plainOffer .final :: squeezeN outLen).map fun o => updatesOfWord o.cmd).sum = 11 + (outLen + 31) / 32

/-- R105: the commands of ABSORBSEG are all executed and give the source's AbsorbDomain. The premise beside the rule's
own is the invariant of R38, which rules out states no run reaches. A further chunk after a short one is refused with
PARTIAL. At 2^61 bytes or more, where the source gives no result (U5), `absorbDomain` wraps as the block does: that is the
model's reading, log 15. -/
def Obligations.AbsorbSegComputesAbsorbDomain : Prop :=
  (∀ (d : Domain) (x : List Byte) (s : State), s.regs.Inv → s.regs.busy = false →
    s.regs.phase = .absorb → s.regs.segOpen = false → s.regs.err = .none →
    ∃ t rs, runOffers (absorbSeg s.regs.mode d x) s = .next (t, rs) ∧
      (∀ r ∈ rs, r.status.getLsbD 6 = false) ∧
      t.regs = { s.regs with
        perm := absorbDomain s.regs.mode d x s.regs.perm
        msgSeg := if d = .message then s.regs.msgSeg + 1 else s.regs.msgSeg
        ctxSeg := if d = .context then s.regs.ctxSeg + 1 else s.regs.ctxSeg
        len := 0
        segOpen := false
        partialSeg := false
        rej := false }) ∧
  (∀ (n : Nat) (s : State), s.regs.err = .none → s.regs.phase = .absorb → s.regs.partialSeg = true →
    1 ≤ n → n ≤ s.regs.mode.rate →
    ∃ t, exec (.absorb n) s = .next t ∧ t.regs.rej = true ∧ t.regs.err = .partialChunk)

/-- R140: from any state, every command of a TAG or HASH sequence is executed, and the bytes the host keeps are the
source's ComputeTag and ComputeHash as the spec transcribes them. Where the source gives no result, at 2^61 bytes or more
(U5) and for the zero key followed by data (U14), they follow the block's rules: that is the model's reading, log 15. -/
def Obligations.TagAndHashSequencesComputeTheSource : Prop :=
  ∀ (outLen : Nat) (context message : List Byte) (s : State), 1 ≤ outLen → s.regs.busy = false →
    (∀ key : Block, ∃ t rs, runOffers (tagSequence outLen key context message) s = .next (t, rs) ∧
      (∀ r ∈ rs, r.status.getLsbD 6 = false) ∧
      keptOutput outLen rs = computeTag outLen key context message) ∧
    (∃ t rs, runOffers (hashSequence outLen context message) s = .next (t, rs) ∧
      (∀ r ∈ rs, r.status.getLsbD 6 = false) ∧
      keptOutput outLen rs = computeHash outLen context message)

/-- R125: the output of length L has L bytes and is a prefix of every longer output for the same inputs. So it is of
ComputeFinalOutput, and so it is of the block: of what the host keeps of FINAL and SQUEEZEN, from the same state. -/
def Obligations.ShorterOutputIsAPrefix : Prop :=
  ∀ outLen longer : Nat, outLen ≤ longer →
    (∀ (s : Perm) (ctx msg : Counter),
      (computeFinalOutput s ctx msg outLen).length = outLen ∧
      computeFinalOutput s ctx msg outLen <+: computeFinalOutput s ctx msg longer) ∧
    (∀ s : State, s.regs.busy = false → s.regs.err = .none → s.regs.phase = .absorb → s.regs.segOpen = false →
      ∃ t t' rs rs',
        runOffers (plainOffer .final :: squeezeN outLen) s = .next (t, rs) ∧
        runOffers (plainOffer .final :: squeezeN longer) s = .next (t', rs') ∧
        (keptOutput outLen rs).length = outLen ∧ keptOutput outLen rs <+: keptOutput longer rs')

/-- R121, R122, R124, R126: whatever the two segment counters are, FINAL and SQUEEZEN compute the source's
ComputeFinalOutput of S, CTX_SEG and MSG_SEG, and every one of these commands is executed. With a counter at 2^61 or
more, where the source gives no result (U5), `computeFinalOutput` wraps as the block does: that is the model's reading,
log 15. -/
def Obligations.FinalAndSqueezesComputeFinalOutput : Prop :=
  ∀ (outLen : Nat) (s : State),
    s.regs.busy = false → s.regs.err = .none → s.regs.phase = .absorb → s.regs.segOpen = false →
    ∃ t rs, runOffers (plainOffer .final :: squeezeN outLen) s = .next (t, rs) ∧
      (∀ r ∈ rs, r.status.getLsbD 6 = false) ∧
      t.regs.phase = .squeeze ∧ t.regs.err = .none ∧
      keptOutput outLen rs = computeFinalOutput s.regs.perm s.regs.ctxSeg s.regs.msgSeg outLen
end

