-- ==== Sys2Proof/Laws/State.lean ====
section
/-! SUPPORT. One lemma per field per named update of the registers and of the state, each true by rfl. -/

namespace Sys2Proof.Machine

/-! ### `executed` -/

@[simp] theorem Regs.executed_perm (r : Regs) : (r.executed).perm = r.perm := rfl
@[simp] theorem Regs.executed_t (r : Regs) : (r.executed).t = r.t := rfl
@[simp] theorem Regs.executed_out (r : Regs) : (r.executed).out = r.out := rfl
@[simp] theorem Regs.executed_ctxSeg (r : Regs) : (r.executed).ctxSeg = r.ctxSeg := rfl
@[simp] theorem Regs.executed_msgSeg (r : Regs) : (r.executed).msgSeg = r.msgSeg := rfl
@[simp] theorem Regs.executed_len (r : Regs) : (r.executed).len = r.len := rfl
@[simp] theorem Regs.executed_mode (r : Regs) : (r.executed).mode = r.mode := rfl
@[simp] theorem Regs.executed_phase (r : Regs) : (r.executed).phase = r.phase := rfl
@[simp] theorem Regs.executed_segOpen (r : Regs) : (r.executed).segOpen = r.segOpen := rfl
@[simp] theorem Regs.executed_partialSeg (r : Regs) : (r.executed).partialSeg = r.partialSeg := rfl
@[simp] theorem Regs.executed_err (r : Regs) : (r.executed).err = r.err := rfl
@[simp] theorem Regs.executed_rej (r : Regs) : (r.executed).rej = false := rfl
@[simp] theorem Regs.executed_busy (r : Regs) : (r.executed).busy = r.busy := rfl

/-! ### `rejected` -/

@[simp] theorem Regs.rejected_perm (r : Regs) (c : ErrCode) : (r.rejected c).perm = r.perm := rfl
@[simp] theorem Regs.rejected_t (r : Regs) (c : ErrCode) : (r.rejected c).t = r.t := rfl
@[simp] theorem Regs.rejected_out (r : Regs) (c : ErrCode) : (r.rejected c).out = r.out := rfl
@[simp] theorem Regs.rejected_ctxSeg (r : Regs) (c : ErrCode) : (r.rejected c).ctxSeg = r.ctxSeg := rfl
@[simp] theorem Regs.rejected_msgSeg (r : Regs) (c : ErrCode) : (r.rejected c).msgSeg = r.msgSeg := rfl
@[simp] theorem Regs.rejected_len (r : Regs) (c : ErrCode) : (r.rejected c).len = r.len := rfl
@[simp] theorem Regs.rejected_mode (r : Regs) (c : ErrCode) : (r.rejected c).mode = r.mode := rfl
@[simp] theorem Regs.rejected_phase (r : Regs) (c : ErrCode) : (r.rejected c).phase = r.phase := rfl
@[simp] theorem Regs.rejected_segOpen (r : Regs) (c : ErrCode) : (r.rejected c).segOpen = r.segOpen := rfl
@[simp] theorem Regs.rejected_partialSeg (r : Regs) (c : ErrCode) : (r.rejected c).partialSeg = r.partialSeg := rfl
@[simp] theorem Regs.rejected_err (r : Regs) (c : ErrCode) : (r.rejected c).err = if r.err = .none then c else r.err := rfl
@[simp] theorem Regs.rejected_rej (r : Regs) (c : ErrCode) : (r.rejected c).rej = true := rfl
@[simp] theorem Regs.rejected_busy (r : Regs) (c : ErrCode) : (r.rejected c).busy = r.busy := rfl

/-! ### `segmentTook` -/

@[simp] theorem Regs.segmentTook_perm (r : Regs) (n rate : Nat) : (r.segmentTook n rate).perm = r.perm := rfl
@[simp] theorem Regs.segmentTook_t (r : Regs) (n rate : Nat) : (r.segmentTook n rate).t = r.t := rfl
@[simp] theorem Regs.segmentTook_out (r : Regs) (n rate : Nat) : (r.segmentTook n rate).out = r.out := rfl
@[simp] theorem Regs.segmentTook_ctxSeg (r : Regs) (n rate : Nat) : (r.segmentTook n rate).ctxSeg = r.ctxSeg := rfl
@[simp] theorem Regs.segmentTook_msgSeg (r : Regs) (n rate : Nat) : (r.segmentTook n rate).msgSeg = r.msgSeg := rfl
@[simp] theorem Regs.segmentTook_len (r : Regs) (n rate : Nat) : (r.segmentTook n rate).len = r.len := rfl
@[simp] theorem Regs.segmentTook_mode (r : Regs) (n rate : Nat) : (r.segmentTook n rate).mode = r.mode := rfl
@[simp] theorem Regs.segmentTook_phase (r : Regs) (n rate : Nat) : (r.segmentTook n rate).phase = r.phase := rfl
@[simp] theorem Regs.segmentTook_segOpen (r : Regs) (n rate : Nat) : (r.segmentTook n rate).segOpen = true := rfl
@[simp] theorem Regs.segmentTook_partialSeg (r : Regs) (n rate : Nat) : (r.segmentTook n rate).partialSeg = decide (n < rate) := rfl
@[simp] theorem Regs.segmentTook_err (r : Regs) (n rate : Nat) : (r.segmentTook n rate).err = r.err := rfl
@[simp] theorem Regs.segmentTook_rej (r : Regs) (n rate : Nat) : (r.segmentTook n rate).rej = r.rej := rfl
@[simp] theorem Regs.segmentTook_busy (r : Regs) (n rate : Nat) : (r.segmentTook n rate).busy = r.busy := rfl

/-! ### `segmentClosed` -/

@[simp] theorem Regs.segmentClosed_perm (r : Regs) : (r.segmentClosed).perm = r.perm := rfl
@[simp] theorem Regs.segmentClosed_t (r : Regs) : (r.segmentClosed).t = r.t := rfl
@[simp] theorem Regs.segmentClosed_out (r : Regs) : (r.segmentClosed).out = r.out := rfl
@[simp] theorem Regs.segmentClosed_ctxSeg (r : Regs) : (r.segmentClosed).ctxSeg = r.ctxSeg := rfl
@[simp] theorem Regs.segmentClosed_msgSeg (r : Regs) : (r.segmentClosed).msgSeg = r.msgSeg := rfl
@[simp] theorem Regs.segmentClosed_len (r : Regs) : (r.segmentClosed).len = 0 := rfl
@[simp] theorem Regs.segmentClosed_mode (r : Regs) : (r.segmentClosed).mode = r.mode := rfl
@[simp] theorem Regs.segmentClosed_phase (r : Regs) : (r.segmentClosed).phase = r.phase := rfl
@[simp] theorem Regs.segmentClosed_segOpen (r : Regs) : (r.segmentClosed).segOpen = false := rfl
@[simp] theorem Regs.segmentClosed_partialSeg (r : Regs) : (r.segmentClosed).partialSeg = false := rfl
@[simp] theorem Regs.segmentClosed_err (r : Regs) : (r.segmentClosed).err = r.err := rfl
@[simp] theorem Regs.segmentClosed_rej (r : Regs) : (r.segmentClosed).rej = r.rej := rfl
@[simp] theorem Regs.segmentClosed_busy (r : Regs) : (r.segmentClosed).busy = r.busy := rfl

/-! ### `zeroized` -/

@[simp] theorem Regs.zeroized_perm (r : Regs) : (r.zeroized).perm = Perm.zeros := rfl
@[simp] theorem Regs.zeroized_t (r : Regs) : (r.zeroized).t = 0 := rfl
@[simp] theorem Regs.zeroized_out (r : Regs) : (r.zeroized).out = 0 := rfl
@[simp] theorem Regs.zeroized_ctxSeg (r : Regs) : (r.zeroized).ctxSeg = 0 := rfl
@[simp] theorem Regs.zeroized_msgSeg (r : Regs) : (r.zeroized).msgSeg = 0 := rfl
@[simp] theorem Regs.zeroized_len (r : Regs) : (r.zeroized).len = 0 := rfl
@[simp] theorem Regs.zeroized_mode (r : Regs) : (r.zeroized).mode = .keyless := rfl
@[simp] theorem Regs.zeroized_phase (r : Regs) : (r.zeroized).phase = .idle := rfl
@[simp] theorem Regs.zeroized_segOpen (r : Regs) : (r.zeroized).segOpen = false := rfl
@[simp] theorem Regs.zeroized_partialSeg (r : Regs) : (r.zeroized).partialSeg = false := rfl
@[simp] theorem Regs.zeroized_err (r : Regs) : (r.zeroized).err = .none := rfl
@[simp] theorem Regs.zeroized_rej (r : Regs) : (r.zeroized).rej = false := rfl
@[simp] theorem Regs.zeroized_busy (r : Regs) : (r.zeroized).busy = r.busy := rfl

/-! ### `started` -/

@[simp] theorem Regs.started_perm (r : Regs) (m : Mode) (k0 k1 : Word) : (r.started m k0 k1).perm = permInit k0 k1 := rfl
@[simp] theorem Regs.started_t (r : Regs) (m : Mode) (k0 k1 : Word) : (r.started m k0 k1).t = 0 := rfl
@[simp] theorem Regs.started_out (r : Regs) (m : Mode) (k0 k1 : Word) : (r.started m k0 k1).out = 0 := rfl
@[simp] theorem Regs.started_ctxSeg (r : Regs) (m : Mode) (k0 k1 : Word) : (r.started m k0 k1).ctxSeg = 0 := rfl
@[simp] theorem Regs.started_msgSeg (r : Regs) (m : Mode) (k0 k1 : Word) : (r.started m k0 k1).msgSeg = 0 := rfl
@[simp] theorem Regs.started_len (r : Regs) (m : Mode) (k0 k1 : Word) : (r.started m k0 k1).len = 0 := rfl
@[simp] theorem Regs.started_mode (r : Regs) (m : Mode) (k0 k1 : Word) : (r.started m k0 k1).mode = m := rfl
@[simp] theorem Regs.started_phase (r : Regs) (m : Mode) (k0 k1 : Word) : (r.started m k0 k1).phase = .absorb := rfl
@[simp] theorem Regs.started_segOpen (r : Regs) (m : Mode) (k0 k1 : Word) : (r.started m k0 k1).segOpen = false := rfl
@[simp] theorem Regs.started_partialSeg (r : Regs) (m : Mode) (k0 k1 : Word) : (r.started m k0 k1).partialSeg = false := rfl
@[simp] theorem Regs.started_err (r : Regs) (m : Mode) (k0 k1 : Word) : (r.started m k0 k1).err = .none := rfl
@[simp] theorem Regs.started_rej (r : Regs) (m : Mode) (k0 k1 : Word) : (r.started m k0 k1).rej = false := rfl
@[simp] theorem Regs.started_busy (r : Regs) (m : Mode) (k0 k1 : Word) : (r.started m k0 k1).busy = r.busy := rfl

/-! ### `reset` -/

@[simp] theorem Regs.reset_perm  : (Regs.reset).perm = Perm.zeros := rfl
@[simp] theorem Regs.reset_t  : (Regs.reset).t = 0 := rfl
@[simp] theorem Regs.reset_out  : (Regs.reset).out = 0 := rfl
@[simp] theorem Regs.reset_ctxSeg  : (Regs.reset).ctxSeg = 0 := rfl
@[simp] theorem Regs.reset_msgSeg  : (Regs.reset).msgSeg = 0 := rfl
@[simp] theorem Regs.reset_len  : (Regs.reset).len = 0 := rfl
@[simp] theorem Regs.reset_mode  : (Regs.reset).mode = .keyless := rfl
@[simp] theorem Regs.reset_phase  : (Regs.reset).phase = .idle := rfl
@[simp] theorem Regs.reset_segOpen  : (Regs.reset).segOpen = false := rfl
@[simp] theorem Regs.reset_partialSeg  : (Regs.reset).partialSeg = false := rfl
@[simp] theorem Regs.reset_err  : (Regs.reset).err = .none := rfl
@[simp] theorem Regs.reset_rej  : (Regs.reset).rej = false := rfl
@[simp] theorem Regs.reset_busy  : (Regs.reset).busy = false := rfl

/-! ### `reject` -/

@[simp] theorem State.reject_regs (s : State) (c : ErrCode) : (s.reject c).regs = s.regs.rejected c := rfl
@[simp] theorem State.reject_cmd (s : State) (c : ErrCode) : (s.reject c).cmd = s.cmd := rfl
@[simp] theorem State.reject_din (s : State) (c : ErrCode) : (s.reject c).din = s.din := rfl
@[simp] theorem State.reject_inputs (s : State) (c : ErrCode) : (s.reject c).inputs = s.inputs := rfl
@[simp] theorem State.reject_captures (s : State) (c : ErrCode) : (s.reject c).captures = s.captures := rfl

/-! ### `accept` -/

@[simp] theorem State.accept_regs (s : State) (o : Offer) (rest : List HostInput) : (s.accept o rest).regs = { s.regs with busy := true } := rfl
@[simp] theorem State.accept_cmd (s : State) (o : Offer) (rest : List HostInput) : (s.accept o rest).cmd = o.cmd := rfl
@[simp] theorem State.accept_din (s : State) (o : Offer) (rest : List HostInput) : (s.accept o rest).din = o.din := rfl
@[simp] theorem State.accept_inputs (s : State) (o : Offer) (rest : List HostInput) : (s.accept o rest).inputs = rest := rfl
@[simp] theorem State.accept_captures (s : State) (o : Offer) (rest : List HostInput) : (s.accept o rest).captures = s.captures + 1 := rfl

/-! ### `retire` -/

@[simp] theorem State.retire_regs (s : State) : (s.retire).regs = { s.regs with busy := false } := rfl
@[simp] theorem State.retire_cmd (s : State) : (s.retire).cmd = 0 := rfl
@[simp] theorem State.retire_din (s : State) : (s.retire).din = 0 := rfl
@[simp] theorem State.retire_inputs (s : State) : (s.retire).inputs = s.inputs := rfl
@[simp] theorem State.retire_captures (s : State) : (s.retire).captures = s.captures := rfl

/-! ### `hardReset` -/

@[simp] theorem State.hardReset_regs (s : State) : (s.hardReset).regs = Regs.reset := rfl
@[simp] theorem State.hardReset_cmd (s : State) : (s.hardReset).cmd = 0 := rfl
@[simp] theorem State.hardReset_din (s : State) : (s.hardReset).din = 0 := rfl
@[simp] theorem State.hardReset_inputs (s : State) : (s.hardReset).inputs = s.inputs := rfl
@[simp] theorem State.hardReset_captures (s : State) : (s.hardReset).captures = s.captures := rfl

/-! ### `withWordPresented` -/

@[simp] theorem State.withWordPresented_regs (s : State) (w : CmdWord) : (s.withWordPresented w).regs = { s.regs with busy := false } := rfl
@[simp] theorem State.withWordPresented_cmd (s : State) (w : CmdWord) : (s.withWordPresented w).cmd = s.cmd := rfl
@[simp] theorem State.withWordPresented_din (s : State) (w : CmdWord) : (s.withWordPresented w).din = s.din := rfl
@[simp] theorem State.withWordPresented_inputs (s : State) (w : CmdWord) : (s.withWordPresented w).inputs = .command ⟨w, s.din⟩ [] :: s.inputs := rfl
@[simp] theorem State.withWordPresented_captures (s : State) (w : CmdWord) : (s.withWordPresented w).captures = s.captures := rfl

end Sys2Proof.Machine
end

