-- ==== Sys2Proof/Laws/Ops.lean ====
section
/-! SUPPORT. What each shared operation can do, said once: the checks, rejection, and the lock. -/

namespace Sys2Proof.Machine

theorem Regs.locked_iff (r : Regs) : r.locked = true ↔ r.err ≠ .none := by
  simp [Regs.locked]

theorem Regs.not_locked_iff (r : Regs) : r.locked = false ↔ r.err = .none := by
  simp [Regs.locked]

/-- All checks pass exactly when there is no first failure. -/
theorem firstFailure_none_iff (cs : List Check) : firstFailure cs = none ↔ ∀ c ∈ cs, c.passes = true := by
  induction cs with
  | nil => simp [firstFailure]
  | cons c cs ih => cases h : c.passes <;> simp [firstFailure, h, ih]

/-- A first failure is the code of a check of the list that fails. -/
theorem firstFailure_some {cs : List Check} {code : ErrCode} (h : firstFailure cs = some code) :
    ∃ c ∈ cs, c.passes = false ∧ c.code = code := by
  induction cs with
  | nil => simp [firstFailure] at h
  | cons c cs ih =>
    cases hc : c.passes with
    | false => exact ⟨c, by simp, hc, by simpa [firstFailure, hc] using h⟩
    | true =>
      obtain ⟨d, hd, hf⟩ := ih (by simpa [firstFailure, hc] using h)
      exact ⟨d, by simp [hd], hf⟩

/-- Everything a guarded command can do: a silent rejection while an error is locked in, a rejection with the code of
the first failing check, or its effect on the registers. -/
theorem guarded_cases (cs : List Check) (effect : Regs → Regs) (s : State) :
    (s.regs.err ≠ .none ∧ guarded cs effect s = s.reject s.regs.err) ∨
    (s.regs.err = .none ∧ ∃ code, firstFailure cs = some code ∧ guarded cs effect s = s.reject code) ∨
    (s.regs.err = .none ∧ (∀ c ∈ cs, c.passes = true) ∧ guarded cs effect s = { s with regs := effect s.regs }) := by
  unfold guarded
  cases hl : s.regs.locked with
  | true => exact .inl ⟨(Regs.locked_iff _).1 hl, rfl⟩
  | false =>
    have he := (Regs.not_locked_iff _).1 hl
    cases hf : firstFailure cs with
    | none => exact .inr (.inr ⟨he, (firstFailure_none_iff cs).1 hf, rfl⟩)
    | some code => exact .inr (.inl ⟨he, code, rfl, rfl⟩)

/-- A guarded command whose checks all pass is executed. -/
theorem guarded_passes {cs : List Check} {effect : Regs → Regs} {s : State} (he : s.regs.err = .none)
    (hc : ∀ c ∈ cs, c.passes = true) : guarded cs effect s = { s with regs := effect s.regs } := by
  rw [guarded, if_neg (by simp [Regs.locked, he]), (firstFailure_none_iff cs).2 hc]

/-- While an error is locked in, a guarded command is rejected, and only REJ changes. -/
theorem guarded_locked {cs : List Check} {effect : Regs → Regs} {s : State} (he : s.regs.err ≠ .none) :
    guarded cs effect s = { s with regs := { s.regs with rej := true } } := by
  rw [guarded, if_pos ((Regs.locked_iff _).2 he)]
  simp [State.reject, Regs.rejected, he]

/-- A guarded command one of whose checks fails is rejected with the first failure's code. -/
theorem guarded_fails {cs : List Check} {effect : Regs → Regs} {s : State} {code : ErrCode}
    (he : s.regs.err = .none) (hf : firstFailure cs = some code) :
    guarded cs effect s = { s with regs := { s.regs with err := code, rej := true } } := by
  rw [guarded, if_neg (by simp [Regs.locked, he]), hf]
  simp [State.reject, Regs.rejected, he]

/-- No check names the code NONE, so a first failure of these checks is an error. -/
theorem firstFailure_ne_none {r : Regs} {cs : List Check} {n : Nat} {p : Phase} {code : ErrCode}
    (hcs : ∀ c ∈ cs, c ∈ [checkPhase r p, checkClosed r, checkLength r n, checkWhole r])
    (h : firstFailure cs = some code) : code ≠ .none := by
  obtain ⟨c, hc, -, rfl⟩ := firstFailure_some h
  have := hcs c hc
  simp only [List.mem_cons, List.not_mem_nil, or_false] at this
  rcases this with rfl | rfl | rfl | rfl <;> simp [checkPhase, checkClosed, checkLength, checkWhole]

end Sys2Proof.Machine
end

