-- ==== Sys2Proof/Laws/PerInstr.lean ====
section
/-! SUPPORT. One fact about every instruction as syntax, a lemma per constructor: its word selects its own row of the
opcode table (spec/30_encoding.md R73). -/

namespace Sys2Proof.Laws.SelectsRow

/-- The instruction's word selects the instruction's row, and the row is one of the table's. -/
def Statement (i : Instr) : Prop :=
  i.wellFormed = true → encode i &&& i.row.mask = i.row.pattern ∧ i.row ∈ opcodeTable

theorem initHash : Statement .initHash := fun _ => by decide

theorem initKey : Statement .initKey := fun _ => by decide

/-- ABSORB's mask leaves N free: the word has no bit of the mask but OP's. -/
theorem absorb (n : Nat) : Statement (.absorb n) := fun h => by
  have hn : n < 64 := by simpa [Instr.wellFormed] using h
  refine ⟨?_, by simp [opcodeTable, Instr.row]⟩
  have : ∀ k : Fin 64, encode (.absorb k) &&& 0xFFFFC0FF = 0x00000002 := by decide
  exact this ⟨n, hn⟩

theorem endMsg : Statement .endMsg := fun _ => by decide

theorem endCtx : Statement .endCtx := fun _ => by decide

theorem final : Statement .final := fun _ => by decide

theorem squeeze : Statement .squeeze := fun _ => by decide

theorem update : Statement .update := fun _ => by decide

theorem clear : Statement .clear := fun _ => by decide

end Sys2Proof.Laws.SelectsRow
end

