-- ==== Sys2Proof/Laws/Step.lean ====
section
/-! SUPPORT. What the meanings, a captured word and a step can answer, said once. -/

namespace Sys2Proof.Machine

/-- The registers an executed command leaves (the effect of each meaning). -/
def effectOf (i : Instr) (din : Block) (r : Regs) : Regs :=
  match i with
  | .initHash => r.started .keyless 0 0
  | .initKey => r.started .keyed (firstHalf din) (secondHalf din)
  | .absorb n => absorbEffect n din r
  | .endMsg => endMsgEffect r
  | .endCtx => endCtxEffect r
  | .final => finalEffect r
  | .squeeze => squeezeEffect r
  | .update => updateEffect din r
  | .clear => r.zeroized

/-- The checks of each command behind the lock. -/
def checksOf (i : Instr) (r : Regs) : List Check :=
  match i with
  | .initHash => []
  | .initKey => []
  | .absorb n => [checkPhase r .absorb, checkLength r n, checkWhole r]
  | .endMsg => [checkPhase r .absorb]
  | .endCtx => [checkPhase r .absorb]
  | .final => [checkPhase r .absorb, checkClosed r]
  | .squeeze => [checkPhase r .squeeze]
  | .update => [checkPhase r .absorb]
  | .clear => []

/-- A command that the lock does not hold back is executed. -/
theorem exec_afresh {i : Instr} (h : startsAfresh i = true) (s : State) :
    exec i s = .next { s with regs := effectOf i s.din s.regs } := by
  cases i <;> first | rfl | simp [startsAfresh] at h

/-- Every other command is guarded by the lock and its own checks. -/
theorem exec_guarded {i : Instr} (h : startsAfresh i = false) (s : State) :
    exec i s = .next (guarded (checksOf i s.regs) (effectOf i s.din) s) := by
  cases i <;> first | rfl | simp [startsAfresh] at h

/-- Every command answers a next state. -/
theorem exec_next (i : Instr) (s : State) : ∃ t, exec i s = .next t := by
  cases i <;> exact ⟨_, rfl⟩

/-- No executed command leaves REJ set. -/
theorem effectOf_rej (i : Instr) (din : Block) (r : Regs) : (effectOf i din r).rej = false := by
  cases i <;> rfl

/-- No command writes BUSY. -/
theorem effectOf_busy (i : Instr) (din : Block) (r : Regs) : (effectOf i din r).busy = r.busy := by
  cases i <;> rfl

/-- A first failing check never names NONE. -/
theorem checksOf_failure {i : Instr} {r : Regs} {code : ErrCode} (h : firstFailure (checksOf i r) = some code) :
    code ≠ .none := by
  cases i with
  | absorb n => exact firstFailure_ne_none (r := r) (n := n) (p := .absorb) (by simp [checksOf]) h
  | squeeze => exact firstFailure_ne_none (r := r) (n := 0) (p := .squeeze) (by simp [checksOf]) h
  | initHash | initKey | clear => simp [checksOf, firstFailure] at h
  | endMsg | endCtx | final | update =>
    exact firstFailure_ne_none (r := r) (n := 0) (p := .absorb) (by simp [checksOf]) h

/-- Everything a command can answer: it is rejected, silently or with the code of its first failing check, or it is
executed. -/
theorem exec_cases {i : Instr} {s t : State} (h : exec i s = .next t) :
    (startsAfresh i = false ∧ s.regs.err ≠ .none ∧ t = { s with regs := { s.regs with rej := true } }) ∨
    (startsAfresh i = false ∧ s.regs.err = .none ∧ ∃ code, code ≠ .none ∧
      firstFailure (checksOf i s.regs) = some code ∧
      t = { s with regs := { s.regs with err := code, rej := true } }) ∨
    ((startsAfresh i = true ∨ s.regs.err = .none ∧ ∀ c ∈ checksOf i s.regs, c.passes = true) ∧
      t = { s with regs := effectOf i s.din s.regs }) := by
  cases ha : startsAfresh i with
  | true =>
    rw [exec_afresh ha] at h
    cases h
    exact .inr (.inr ⟨.inl rfl, rfl⟩)
  | false =>
    rw [exec_guarded ha] at h
    cases h
    rcases guarded_cases (checksOf i s.regs) (effectOf i s.din) s with ⟨he, -⟩ | ⟨he, code, hf, -⟩ | ⟨he, hc, hg⟩
    · exact .inl ⟨rfl, he, guarded_locked he⟩
    · exact .inr (.inl ⟨rfl, he, code, checksOf_failure hf, hf, guarded_fails he hf⟩)
    · exact .inr (.inr ⟨.inr ⟨he, hc⟩, hg⟩)

/-- A captured word always answers a next state. -/
theorem runCaptured_next (s : State) : ∃ t, runCaptured s = .next t := by
  unfold runCaptured
  cases h : decode s.cmd with
  | ok i => exact exec_next i s
  | error why => exact ⟨_, rfl⟩

/-- A command offered to the ready block is the captured word's answer, completed. -/
theorem runCommand_eq {o : Offer} {rest : List HostInput} {s t : State} (h : runCaptured (s.accept o rest) = .next t) :
    runCommand o rest s = .next t.retire := by
  rw [runCommand, h, onNext]

/-- The value captured is one of those presented. -/
theorem capturedOffer_mem (k : Nat) (first : Offer) (later : List Offer) :
    capturedOffer k first later ∈ first :: later := by
  cases later with
  | nil => simp [capturedOffer]
  | cons o os =>
    have hk : k % (os.length + 2) < (first :: o :: os).length := Nat.mod_lt _ (Nat.succ_pos _)
    rw [capturedOffer, List.getD_eq_getElem _ _ hk]
    exact List.getElem_mem hk

/-- Everything a step can do: complete a command in the block, idle, take a command, see one withdrawn, or reset. -/
theorem step_cases {s t : State} (h : step s = .next t) :
    (s.regs.busy = true ∧ t = s.retire) ∨
    (s.regs.busy = false ∧ s.inputs = [] ∧ t = s) ∨
    (s.regs.busy = false ∧ ∃ first later rest o u, s.inputs = .command first later :: rest ∧ o ∈ first :: later ∧
      runCaptured (s.accept o rest) = .next u ∧ t = u.retire) ∨
    (s.regs.busy = false ∧ ∃ o rest, s.inputs = .withdrawn o :: rest ∧ t = { s with inputs := rest }) ∨
    (s.regs.busy = false ∧ ∃ rest, s.inputs = .reset :: rest ∧ t = { s.hardReset with inputs := rest }) ∨
    (s.regs.busy = false ∧ ∃ o rest, s.inputs = .commandCutByReset o :: rest ∧ t = (s.accept o rest).hardReset) := by
  cases hb : s.regs.busy with
  | true =>
    simp only [step, State.cmdReady, hb] at h
    cases h
    exact .inl ⟨rfl, rfl⟩
  | false =>
    simp only [step, State.cmdReady, hb, Bool.not_false, if_true, runNextInput] at h
    refine .inr ?_
    cases hi : s.inputs with
    | nil =>
      rw [hi] at h
      cases h
      exact .inl ⟨rfl, rfl, rfl⟩
    | cons i rest =>
      rw [hi] at h
      refine .inr ?_
      cases i with
      | command first later =>
        obtain ⟨u, hu⟩ := runCaptured_next
          (s.accept (capturedOffer (Config.captureChoice s.captures) first later) rest)
        simp only [runInput, runCommand_eq hu] at h
        cases h
        exact .inl ⟨rfl, first, later, rest, _, u, rfl, capturedOffer_mem _ _ _, hu, rfl⟩
      | withdrawn o =>
        cases h
        exact .inr (.inl ⟨rfl, o, rest, rfl, rfl⟩)
      | reset =>
        cases h
        exact .inr (.inr (.inl ⟨rfl, rest, rfl, rfl⟩))
      | commandCutByReset o =>
        cases h
        exact .inr (.inr (.inr ⟨rfl, o, rest, rfl, rfl⟩))

end Sys2Proof.Machine
end

