-- ==== Sys2Proof/Laws/Run.lean ====
section
/-! SUPPORT. A presented command and a run of commands, said on the registers alone: everything the block answers to
commands presented one after another is a function of the registers and the commands. -/

namespace Sys2Proof.Machine

/-! ### One presented command -/

theorem step_ready {s : State} (h : s.regs.busy = false) : step s = runNextInput s := by
  simp [step, State.cmdReady, h]

/-- The ready block takes a command the host holds. -/
theorem step_command {s : State} {o : Offer} {rest : List HostInput} (h : s.regs.busy = false)
    (hi : s.inputs = .command o [] :: rest) : step s = runCommand o rest s := by
  rw [step_ready h, runNextInput, hi]
  rfl

/-- The ready block takes the command presented to it at once. -/
theorem present_ready (o : Offer) {s : State} (h : s.regs.busy = false) :
    present o s = runCommand o s.inputs { s with inputs := .command o [] :: s.inputs } :=
  step_command h rfl

/-- A presented word that decodes is executed or rejected by its meaning, then completed. -/
theorem present_decoded {s : State} {o : Offer} {i : Instr} (h : s.regs.busy = false) (hd : decode o.cmd = .ok i) :
    present o s = onNext State.retire (exec i (s.accept o s.inputs)) := by
  rw [present_ready o h, runCommand, runCaptured]
  simp only [State.accept_cmd, hd]
  rfl

/-- A presented word that does not decode is rejected, then completed. -/
theorem present_undecoded {s : State} {o : Offer} {why : DecodeReject} (h : s.regs.busy = false)
    (hd : decode o.cmd = .error why) :
    present o s = .next ((s.accept o s.inputs).reject (rejectCode why)).retire := by
  rw [present_ready o h, runCommand, runCaptured]
  simp only [State.accept_cmd, hd]
  rfl

/-! ### The registers a presented command leaves -/

/-- The registers after a presented command: rejected or executed. -/
def answer (o : Offer) (r : Regs) : Regs :=
  match decode o.cmd with
  | .error why => r.rejected (rejectCode why)
  | .ok i =>
    if startsAfresh i then effectOf i o.din r
    else if r.locked then r.rejected r.err
    else
      match firstFailure (checksOf i r) with
      | some code => r.rejected code
      | none => effectOf i o.din r

section Answer

variable {o : Offer} {i : Instr} {r : Regs}

theorem answer_afresh (hd : decode o.cmd = .ok i) (ha : startsAfresh i = true) : answer o r = effectOf i o.din r := by
  simp [answer, hd, ha]

theorem answer_locked (hd : decode o.cmd = .ok i) (ha : startsAfresh i = false) (he : r.err ≠ .none) :
    answer o r = { r with rej := true } := by
  simp [answer, hd, ha, Regs.locked, he, Regs.rejected]

theorem answer_fails {code : ErrCode} (hd : decode o.cmd = .ok i) (ha : startsAfresh i = false) (he : r.err = .none)
    (hf : firstFailure (checksOf i r) = some code) : answer o r = { r with err := code, rej := true } := by
  simp [answer, hd, ha, Regs.locked, he, Regs.rejected, hf]

theorem answer_executed (hd : decode o.cmd = .ok i) (ha : startsAfresh i = false) (he : r.err = .none)
    (hf : firstFailure (checksOf i r) = none) : answer o r = effectOf i o.din r := by
  simp [answer, hd, ha, Regs.locked, he, hf]

end Answer

/-- No check reads BUSY. -/
theorem checksOf_busy (i : Instr) (r : Regs) (b : Bool) : checksOf i { r with busy := b } = checksOf i r := by
  cases i <;> rfl

/-- No effect reads or writes BUSY. -/
theorem effectOf_with_busy (i : Instr) (din : Block) (r : Regs) (b : Bool) :
    effectOf i din { r with busy := b } = { effectOf i din r with busy := b } := by
  cases i <;> rfl

theorem Regs.ready_eta {r : Regs} (h : r.busy = false) : ({ r with busy := false } : Regs) = r := by
  rw [← h]

/-- What a ready block does with a presented command: its registers become the answer, and its host inputs stay. -/
theorem present_answer (o : Offer) {s : State} (hb : s.regs.busy = false) :
    ∃ t, present o s = .next t ∧ t.regs = answer o s.regs ∧ t.inputs = s.inputs := by
  have completed : ∀ i, ({ effectOf i o.din { s.regs with busy := true } with busy := false } : Regs) =
      effectOf i o.din s.regs := by
    intro i
    rw [effectOf_with_busy]
    exact Regs.ready_eta ((effectOf_busy i o.din s.regs).trans hb)
  cases hd : decode o.cmd with
  | error why =>
    refine ⟨_, present_undecoded hb hd, ?_, rfl⟩
    simp [answer, hd, Regs.rejected, hb]
    rfl
  | ok i =>
    have hp := present_decoded hb hd
    cases ha : startsAfresh i with
    | true =>
      rw [exec_afresh ha] at hp
      exact ⟨_, hp, (completed i).trans (answer_afresh hd ha).symm, rfl⟩
    | false =>
      rw [exec_guarded ha] at hp
      by_cases he : s.regs.err = .none
      · cases hf : firstFailure (checksOf i s.regs) with
        | some code =>
          rw [guarded_fails (s := s.accept o s.inputs) he (by simpa [checksOf_busy] using hf)] at hp
          exact ⟨_, hp, by rw [answer_fails hd ha he hf]; simp [hb], rfl⟩
        | none =>
          rw [guarded_passes (s := s.accept o s.inputs) he
            (by simpa [checksOf_busy] using (firstFailure_none_iff _).1 hf)] at hp
          exact ⟨_, hp, (completed i).trans (answer_executed hd ha he hf).symm, rfl⟩
      · rw [guarded_locked (s := s.accept o s.inputs) he] at hp
        exact ⟨_, hp, by rw [answer_locked hd ha he]; simp [hb], rfl⟩

/-- What a step of a ready block does with the command the host has lined up: its registers become the answer, and the
other host inputs stay. -/
theorem step_answer {o : Offer} {rest : List HostInput} {s : State} (hb : s.regs.busy = false)
    (hi : s.inputs = .command o [] :: rest) :
    ∃ t, step s = .next t ∧ t.regs = answer o s.regs ∧ t.inputs = rest := by
  obtain ⟨t, ht, hr, hti⟩ := present_answer o (s := { s with inputs := rest }) hb
  refine ⟨t, ?_, hr, hti⟩
  rw [← ht, present, ← hi]

/-- An answer keeps BUSY. -/
theorem answer_busy (o : Offer) (r : Regs) : (answer o r).busy = r.busy := by
  unfold answer
  split
  · rfl
  · split
    · exact effectOf_busy _ _ _
    · split
      · rfl
      · split
        · rfl
        · exact effectOf_busy _ _ _

/-! ### Runs -/

/-- What the host reads from a ready block with these registers. -/
def Regs.reading (r : Regs) : Reading := ⟨r.status, r.out⟩

theorem State.reading_ready {s : State} (h : s.regs.busy = false) : s.reading = s.regs.reading := by
  simp [State.reading, Regs.reading, State.statusPort, State.doutPort, h]

/-- The registers after a run, and the readings of it. -/
def answers : List Offer → Regs → Regs × List Reading
  | [], r => (r, [])
  | o :: os, r => ((answers os (answer o r)).1, (answer o r).reading :: (answers os (answer o r)).2)

theorem answers_append (os os' : List Offer) (r : Regs) :
    answers (os ++ os') r =
      ((answers os' (answers os r).1).1, (answers os r).2 ++ (answers os' (answers os r).1).2) := by
  induction os generalizing r with
  | nil => rfl
  | cons o os ih => simp only [List.cons_append, answers, ih]

theorem runOffers_cons {o : Offer} {s t : State} (os : List Offer) (h : present o s = .next t) :
    runOffers (o :: os) s =
      match runOffers os t with
      | .next (u, rs) => .next (u, t.reading :: rs)
      | .fault r => .fault r
      | .refused r => .refused r := by
  rw [runOffers, h] <;> rfl

theorem takeSteps_next (n : Nat) {s t : State} (h : step s = .next t) : takeSteps (n + 1) s = takeSteps n t := by
  rw [takeSteps, h]

/-- A run from a ready block: every command is answered, and the registers and the readings are the answers'. -/
theorem runOffers_answers (os : List Offer) {s : State} (hb : s.regs.busy = false) :
    ∃ t, runOffers os s = .next (t, (answers os s.regs).2) ∧ t.regs = (answers os s.regs).1 ∧
      t.inputs = s.inputs := by
  induction os generalizing s with
  | nil => exact ⟨s, rfl, rfl, rfl⟩
  | cons o os ih =>
    obtain ⟨t, ht, hr, hi⟩ := present_answer o hb
    have htb : t.regs.busy = false := by rw [hr, answer_busy, hb]
    obtain ⟨u, hu, hur, hui⟩ := ih htb
    refine ⟨u, ?_, by rw [hur, hr]; rfl, by rw [hui, hi]⟩
    rw [runOffers_cons os ht, hu, State.reading_ready htb, hr]
    rfl

end Sys2Proof.Machine
end

