-- ==== Sys2Proof/Tests/Slice0.lean ====
section
/-! SUPPORT. The model's own tests, and a witness for the hypotheses of every statement. Expected values come from the
spec's tables and worked examples (spec/95_test_vectors.md) or from hand calculation by its rules, as each says. -/

namespace Sys2Proof.Machine.Tests

/-! ### Small states -/

/-- The state a meaning or step answers, or reset if it answers none. -/
def after : Result → State
  | .next t => t
  | .fault _ => State.reset
  | .refused _ => State.reset

/-- A state with these registers and this din, no host input. -/
def withRegs (r : Regs) (din : Block) : State := { State.reset with regs := r, din := din }

/-- Word i is sixteen bytes i (spec/95_test_vectors.md section 2.2, last row). -/
def steps : Perm :=
  ⟨wordOfFn fun _ => 0, wordOfFn fun _ => 1, wordOfFn fun _ => 2, wordOfFn fun _ => 3,
    wordOfFn fun _ => 4, wordOfFn fun _ => 5, wordOfFn fun _ => 6, wordOfFn fun _ => 7⟩

/-- Phase ABSORB in a mode, everything else zero. -/
def absorbing (m : Mode) : Regs := { Regs.reset with phase := .absorb, mode := m }

/-- Phase SQUEEZE, everything else zero. -/
def squeezing : Regs := { Regs.reset with phase := .squeeze }

/-- An error is locked in. -/
def lockedRegs : Regs := { Regs.reset with err := .field }

/-- The host is about to do this. -/
def expecting (i : HostInput) : State := { State.reset with inputs := [i] }

/-! ### Well-formed terms -/

/-- N is six bits (R56). -/
theorem test_wellFormed_refuses_absorb_64 : (Instr.absorb 64).wellFormed = false := by decide

theorem test_wellFormed_takes_absorb_63 : (Instr.absorb 63).wellFormed = true := by decide

/-! ### Decoding: words written out from R56 (reserved, N, reserved, F, OP) -/

theorem test_decode_initHash : decode 0b000000000000000000_000000_000_0_0001 = .ok .initHash := by decide

theorem test_decode_initKey : decode 0b000000000000000000_000000_000_1_0001 = .ok .initKey := by decide

theorem test_decode_absorb : decode 0b000000000000000000_100011_000_0_0010 = .ok (.absorb 35) := by decide

theorem test_decode_endMsg : decode 0b000000000000000000_000000_000_0_0011 = .ok .endMsg := by decide

theorem test_decode_endCtx : decode 0b000000000000000000_000000_000_1_0011 = .ok .endCtx := by decide

theorem test_decode_final : decode 0b000000000000000000_000000_000_0_0100 = .ok .final := by decide

theorem test_decode_squeeze : decode 0b000000000000000000_000000_000_0_0101 = .ok .squeeze := by decide

theorem test_decode_update : decode 0b000000000000000000_000000_000_0_0110 = .ok .update := by decide

theorem test_decode_clear : decode 0b000000000000000000_000000_000_0_0111 = .ok .clear := by decide

/-- A reserved bit in the middle, and one at the top (R62). -/
theorem test_decode_reserved_bits :
    decode 0b000000000000000000_000011_100_0_0010 = .error .field ∧
    decode 0b100000000000000000_000011_000_0_0010 = .error .field := by decide

/-- A reserved operation wins over a reserved bit (R60). -/
theorem test_decode_reserved_op : decode 0b100000000000000000_000000_000_0_1000 = .error .opcode := by decide

theorem test_decodeTableWord : decodeTableWord 32 0x00000302 = some (.absorb 3) ∧ decodeTableWord 32 0 = none := by
  decide

/-! ### The round: R83's worked example (FIPS-197), and section 2.1 row 3 -/

theorem test_aesRound_fips :
    aesRound (wordHex 0x193de3bea0f4e22b9ac68d2ae9f84808) (wordHex 0xa0fafe1788542cb123a339392a6c7605) =
      wordHex 0xa49c7ff2689f352b6b5bea43026a5049 := by decide +kernel

theorem test_aesRound_counting :
    aesRound (wordHex 0x000102030405060708090a0b0c0d0e0f) 0 = wordHex 0x6a6a5c452c6d3351b0d95d61279c215c := by
  decide +kernel

/-- The source's tag vector V1: the 31 whole bytes of the 62 digits it prints (section 1, spec/90_conflicts.md C2). -/
theorem test_source_tag_vector :
    (computeTag 32 (blockHex 0x1001000000000000000000000000000000000000000000000000000000000000) [] []).take 31 =
      (bytesOf (blockHex 0x31af58c44181ba194913c005c5535b143171cdec2228b57285bcdeefe0199200) 31) := by
  decide +kernel

/-! ### One command -/

/-- Section 2.3, INIT.HASH column. -/
theorem test_initHash_word0 :
    (after (exec .initHash State.reset)).regs.perm.s0 = wordHex 0xb024c257e85dc077ec6c8f4b55673d56 := by
  decide +kernel

/-- Section 2.3, middle column, and STATUS of R86. -/
theorem test_initKey_word0 :
    let t := after (exec .initKey (withRegs lockedRegs
      (blockHex 0x1001000000000000000000000000000000000000000000000000000000000000)))
    t.regs.perm.s0 = wordHex 0xef0a7336ae329fda23d1aaefb9eefaf1 ∧ t.regs.status = 0x00000005 := by
  decide +kernel

/-- Section 2.2, last row: the routing of the words. -/
theorem test_update_routes_words :
    (after (exec .update (withRegs { absorbing .keyless with perm := steps } 0))).regs.perm =
      ⟨wordOfFn fun _ => 0xc5, wordOfFn fun _ => 0x62, wordOfFn fun _ => 0x7e, wordOfFn fun _ => 0x74,
        wordOfFn fun _ => 0x7f, wordOfFn fun _ => 0xf7, wordOfFn fun _ => 0x6d, wordOfFn fun _ => 0x68⟩ := by
  decide +kernel

/-- Section 5: UPDATE in IDLE. -/
theorem test_update_in_idle : (after (exec .update State.reset)).regs.status = 0x00000340 := by decide

/-- R102 by hand: "abcdefghi" keyless puts a..h in m0 and i in m1, so with the zero state S0 is 63.. xor m0 (R90,
R91). -/
theorem test_absorb_keyless_places_bytes :
    let t := after (exec (.absorb 9) (withRegs (absorbing .keyless) (ofBytes 256
      [0x61, 0x62, 0x63, 0x64, 0x65, 0x66, 0x67, 0x68, 0x69, 0xff])))
    t.regs.perm.s0 = wordHex 0x020100070605040b6363636363636363 ∧
      t.regs.perm.s4 = wordHex 0x0a636363636363636363636363636363 := by
  decide +kernel

/-- R107's worked example: `ABSORB 3` keyed sets LEN = 3 and STATUS = 0x0000001d. -/
theorem test_absorb_keyed_bookkeeping :
    let t := after (exec (.absorb 3) (withRegs (absorbing .keyed) 0))
    t.regs.len = 3 ∧ t.regs.status = 0x0000001d := by decide +kernel

/-- R108 by hand: LEN = 40 feeds 40 01 (section 3.1), so S0 starts 63 xor 40, 63 xor 01. -/
theorem test_endMsg_length_field :
    let t := after (exec .endMsg (withRegs { absorbing .keyed with len := 40, segOpen := true } 0))
    t.regs.perm.s0 = wordHex 0x23626363636363636363636363636363 ∧ t.regs.msgSeg = 1 ∧ t.regs.ctxSeg = 0 := by
  decide +kernel

/-- R109 by hand: the tag 0x80 is byte 15 of m1, so S4 ends 63 xor 80 (section 3.3). -/
theorem test_endCtx_tag :
    let t := after (exec .endCtx (withRegs (absorbing .keyless) 0))
    t.regs.perm.s4 = wordHex 0x636363636363636363636363636363e3 ∧ t.regs.ctxSeg = 1 := by
  decide +kernel

/-- Section 4.1, case P1: S2 before FINAL and T after it. -/
theorem test_final_tweak :
    (after (exec .final (withRegs { absorbing .keyless with
      perm := { Perm.zeros with s2 := wordHex 0x3f5838e23640e34ea8b41338074f4174 }, msgSeg := 1 } 0))).regs.t =
      wordHex 0x3f5838e23640e34ea0b41338074f4174 := by decide +kernel

/-- Program P3, step 12: FINAL with an open segment. -/
theorem test_final_open :
    (after (exec .final (withRegs { absorbing .keyless with segOpen := true, partialSeg := true } 0))).regs.status =
      0x00000659 := by decide

/-- R122, R123 by hand from section 2.2's last row with T = 0: out1 = 62 xor 6d xor (7e and 74) = 7b, and
out2 = 7e xor f7 xor (6d and 68) = e1. -/
theorem test_squeeze_extracts_after_update :
    (after (exec .squeeze (withRegs { squeezing with perm := steps } 0))).regs.out =
      joinHalves (wordOfFn fun _ => 0x7b) (wordOfFn fun _ => 0xe1) := by decide +kernel

/-- R89: CLEAR gives the reset registers, also with an error locked in. -/
theorem test_clear_resets :
    (after (exec .clear (withRegs { lockedRegs with perm := steps, out := 7, rej := true } 9))).regs = Regs.reset := by
  decide

/-! ### One step -/

/-- Section 5: a reserved word and a malformed word from reset. -/
theorem test_step_rejects_bad_words :
    (after (step (State.reset.withFetchWord 32 0x0000000f))).regs.status = 0x00000140 ∧
    (after (step (State.reset.withFetchWord 32 0x00000025))).regs.status = 0x00000240 := by decide

/-- Section 5: INIT.HASH from reset, and what the step leaves of the command port. -/
theorem test_step_executes :
    let t := after (step (State.reset.withFetchWord 32 0x00000001))
    t.regs.status = 0x00000001 ∧ t.cmd = 0 ∧ t.inputs = [] ∧ t.captures = 1 := by decide +kernel

/-! ### Witnesses: states and operands that meet the hypotheses of each statement, a witness for each clause -/

/-- DecodeAndEncodeAgree, at the largest N. -/
theorem witness_wellFormed_and_decoded :
    (Instr.absorb 63).wellFormed = true ∧ decode 0x00003f02 = .ok (.absorb 63) := by decide

/-- OpcodeTableSelectsWhatDecodes: a word that selects a row, and one that selects none. -/
theorem witness_row_selected_and_none_selected :
    (0x00003f02 &&& (Instr.absorb 0).row.mask = (Instr.absorb 0).row.pattern ∧ (Instr.absorb 0).row ∈ opcodeTable) ∧
    (∀ r ∈ opcodeTable, (0x00004002 : CmdWord) &&& r.mask ≠ r.pattern) := by decide

/-- RoundStepsByteByByte, ByteLanesAndHalves, LengthBlockByteByByte, TweakEncodesSegmentsTimesEight,
ExtractionByteByByte and CarriersPlaceTheChunk: the last index of each range, and the indexes where the carrier's and
the length block's clauses meet. -/
theorem witness_byte_indexes :
    (15 < 16 ∧ 31 < 32 ∧ 3 < 4 ∧ 7 < 8) ∧ (1 ≤ 32 ∧ 32 ≤ 32 ∧ 31 < 32) ∧ (1 ≤ 16 ∧ 16 ≤ 16 ∧ 23 < 32 ∧ 24 < 32) ∧
    (¬ 8 < 8 ∧ 30 ≠ 31) := by decide

/-- The statements about a state with BUSY = 0, and with BUSY = 1. -/
theorem witness_busy : State.reset.regs.busy = false ∧ { Regs.reset with busy := true }.busy = true := by decide

/-- ResetLeavesEveryRegisterZero: the host resets the block. -/
theorem witness_reset_input :
    (expecting .reset).regs.busy = false ∧ (expecting .reset).inputs = .reset :: [] := ⟨rfl, rfl⟩

/-- ResetAbandonsTheCommandInProgress: the host resets the block during INIT.HASH. -/
theorem witness_reset_during_command :
    (expecting (.commandCutByReset ⟨1, 0⟩)).regs.busy = false ∧
      (expecting (.commandCutByReset ⟨1, 0⟩)).inputs = .commandCutByReset ⟨1, 0⟩ :: [] := ⟨rfl, rfl⟩

/-- StepRunsTheDecodedCommand and CapturedCommandIsOnePresented: the host holds a command, one that decodes or one that
does not; it holds it stable or changes it. -/
theorem witness_command_held :
    (expecting (.command ⟨0x11, 5⟩ [])).regs.busy = false ∧
    (expecting (.command ⟨0x11, 5⟩ [])).inputs = .command ⟨0x11, 5⟩ [] :: [] ∧
    decode 0x11 = .ok .initKey ∧ decode 0x25 = .error .field ∧
    (expecting (.command ⟨0x11, 5⟩ [⟨0x11, 6⟩])).inputs = .command ⟨0x11, 5⟩ [⟨0x11, 6⟩] :: [] := by decide

/-- NothingAcceptedChangesNothing: a command withdrawn, and no input at all. -/
theorem witness_withdrawn_and_idle :
    (expecting (.withdrawn ⟨1, 0⟩)).inputs = .withdrawn ⟨1, 0⟩ :: [] ∧ State.reset.inputs = [] := ⟨rfl, rfl⟩

/-- BusyIsZeroAfterEveryStep and EveryStepKeepsTheInvariant: a step that executes a command, from a state that meets
the invariant. -/
theorem witness_step_executes_from_the_invariant :
    (expecting (.command ⟨1, 0⟩ [])).Inv ∧ ∃ t, step (expecting (.command ⟨1, 0⟩ [])) = .next t := by
  refine ⟨⟨⟨by decide, by decide, by decide, by decide, by decide, by decide⟩, rfl, by decide⟩, ?_⟩
  obtain ⟨u, hu⟩ := runCaptured_next ((expecting (.command ⟨1, 0⟩ [])).accept ⟨1, 0⟩ [])
  exact ⟨_, (step_command rfl rfl).trans (runCommand_eq hu)⟩

/-- ReachableStatesMeetTheSixInvariants: a state after INIT.HASH is reachable, and in phase ABSORB. -/
theorem witness_reachable : ∃ t, Reachable t ∧ t.regs.phase = .absorb := by
  have hs : step (expecting (.command ⟨1, 0⟩ [])) = .next _ :=
    (step_command rfl rfl).trans (runCommand_eq (by
      rw [runCaptured, show decode ((expecting (.command ⟨1, 0⟩ [])).accept ⟨1, 0⟩ []).cmd = .ok .initHash by decide]
      rfl))
  exact ⟨_, .next (.reset _) hs, rfl⟩

/-- Two commands lined up and a reset after them. -/
def linedUp : State := { State.reset with inputs := [.command ⟨7, 0⟩ [], .command ⟨1, 0⟩ [], .reset] }

/-- RunsComposeLeftToRight: a state with two commands lined up, and both ends of k. -/
theorem witness_lined_up : linedUp.regs.busy = false ∧
    linedUp.inputs = [(⟨7, 0⟩ : Offer), ⟨1, 0⟩].map (HostInput.command · []) ++ [.reset] ∧
    0 ≤ [(⟨7, 0⟩ : Offer), ⟨1, 0⟩].length ∧ 2 ≤ [(⟨7, 0⟩ : Offer), ⟨1, 0⟩].length := by decide

/-- R50, R89, R87: two steps take the two commands in their order, CLEAR and then INIT.HASH, and leave the reset. -/
theorem test_two_steps_take_two_commands :
    let t := after (takeSteps 2 linedUp)
    t.regs.status = 0x00000001 ∧ t.inputs = [.reset] := by decide +kernel

/-- The executed clauses: UPDATE, END.MSG, END.CTX and ABSORB (at both ends of N in both modes), FINAL, SQUEEZE. -/
theorem witness_executed :
    ((absorbing .keyed).err = .none ∧ (absorbing .keyed).phase = .absorb ∧ (absorbing .keyed).partialSeg = false ∧
      (absorbing .keyed).segOpen = false ∧ (1 ≤ 1 ∧ 32 ≤ (absorbing .keyed).mode.rate)) ∧
    ((absorbing .keyless).err = .none ∧ 16 ≤ (absorbing .keyless).mode.rate) ∧
    (squeezing.err = .none ∧ squeezing.phase = .squeeze) := by decide

/-- The rejected clauses: the lock, the wrong phase, LENGTH at both ends, PARTIAL and OPEN. -/
theorem witness_rejected :
    lockedRegs.err ≠ .none ∧ (Regs.reset.err = .none ∧ Regs.reset.phase ≠ .absorb ∧ Regs.reset.phase ≠ .squeeze) ∧
    ((absorbing .keyless).mode.rate < 17 ∧ (absorbing .keyed).mode.rate < 33 ∧ (absorbing .keyed).phase = .absorb) ∧
    ({ absorbing .keyed with partialSeg := true }.partialSeg = true) ∧
    ({ absorbing .keyed with segOpen := true }.segOpen = true) := by decide

/-- InitKeyStartsKeyedComputation: the zero key. -/
theorem witness_zero_key : State.reset.din = 0 ∧
    ∃ t u, exec .initKey State.reset = .next t ∧ exec .initHash State.reset = .next u := ⟨rfl, _, _, rfl, rfl⟩

/-- RejectionChangesOnlyErrAndRej, FirstFailingCheckDecides and the clauses of FlagWritesFollowTheTable and
PhaseTransitionsFollowTheTable about words that do not decode: a captured word that is rejected, unlocked and locked,
for what it is and for where it comes. -/
theorem witness_captured_word_rejected :
    (∃ t, runCaptured State.reset = .next t ∧ t.regs.rej = true) ∧ State.reset.regs.err = .none ∧
    (withRegs lockedRegs 0).regs.err ≠ .none ∧ decode State.reset.cmd = .error .opcode ∧
    decode { State.reset with cmd := 0x00002002 }.cmd = .ok (.absorb 32) := by
  refine ⟨⟨State.reset.reject .opcode, ?_, rfl⟩, by decide⟩
  rw [runCaptured, show decode State.reset.cmd = .error .opcode by decide]
  rfl

/-- LockedBlockGivesNoOutput: a locked block and a run of commands the lock holds back. -/
theorem witness_locked_run : (withRegs lockedRegs 0).regs.busy = false ∧ (withRegs lockedRegs 0).regs.err ≠ .none ∧
    ∀ o ∈ [plainOffer .squeeze, (⟨0, 0⟩ : Offer)],
      o.cmd ≠ 0x00000001 ∧ o.cmd ≠ 0x00000011 ∧ o.cmd ≠ 0x00000007 := by decide

/-- NoErrorMeansEveryCommandExecuted: a run of SQUEEZE in phase SQUEEZE ends with ERR = 0. -/
theorem witness_run_without_error : (withRegs squeezing 0).regs.busy = false ∧
    (∀ o ∈ [plainOffer .squeeze], ∀ i, decode o.cmd = .ok i → startsAfresh i = false) ∧
    ∃ t rs, runOffers [plainOffer .squeeze] (withRegs squeezing 0) = .next (t, rs) ∧ t.regs.err = .none := by
  have hd : decode (plainOffer .squeeze).cmd = .ok .squeeze := by decide
  refine ⟨rfl, ?_, ?_⟩
  · intro o ho i hi
    rw [List.mem_singleton.1 ho, hd] at hi
    cases hi
    rfl
  · obtain ⟨t, ht, htr, -⟩ := runOffers_answers [plainOffer .squeeze] (s := withRegs squeezing 0) rfl
    exact ⟨t, _, ht, by rw [htr]; decide⟩

/-- The frames, FlagWritesFollowTheTable, PhaseTransitionsFollowTheTable and UpdateCountsFollowTheTable: each command
answers a next state, executed in one state and, for the guarded ones, rejected in another. -/
theorem witness_every_command_answers (i : Instr) : ∃ t, exec i State.reset = .next t := exec_next i State.reset

theorem witness_executed_and_rejected :
    (after (exec .squeeze (withRegs squeezing 0))).regs.rej = false ∧
    (after (exec .squeeze State.reset)).regs.rej = true ∧
    (after (exec (.absorb 32) (withRegs (absorbing .keyed) 0))).regs.rej = false ∧
    (after (exec (.absorb 33) (withRegs (absorbing .keyed) 0))).regs.rej = true := by decide +kernel

/-- IgnoredDinBytesHaveNoEffect: two din values that differ in the first byte ABSORB 3 ignores. -/
theorem witness_ignored_bytes_differ :
    (∀ j, j < dinBytesRead (.absorb 3) → byteAt (ofBytes 256 [1, 2, 3, 4] : Block) j =
      byteAt (ofBytes 256 [1, 2, 3, 5] : Block) j) ∧
    (ofBytes 256 [1, 2, 3, 4] : Block) ≠ ofBytes 256 [1, 2, 3, 5] := by decide +kernel

/-- InitForgetsTheEarlierComputation: two different states, and both INIT commands. -/
theorem witness_two_pasts : (withRegs squeezing 0).regs.busy = false ∧ (withRegs lockedRegs 0).regs.busy = false ∧
    decode (plainOffer .initKey).cmd = .ok .initKey ∧ decode (plainOffer .initHash).cmd = .ok .initHash := by decide

/-- DoutHoldsUntilACommandChangesOut: a presented command is answered. -/
theorem witness_presented : ∃ t, present (plainOffer .squeeze) State.reset = .next t := by
  obtain ⟨t, ht, -⟩ := present_answer (plainOffer .squeeze) (s := State.reset) rfl
  exact ⟨t, ht⟩

/-- LatencyDependsOnNoData: two states and two offers that differ in data only. -/
theorem witness_data_only_differs :
    (plainOffer .update).cmd = (⟨0x00000006, 1⟩ : Offer).cmd ∧
    (absorbing .keyed).mode = { absorbing .keyed with perm := steps, len := 3 }.mode ∧
    (absorbing .keyed).err = { absorbing .keyed with perm := steps, len := 3 }.err := by decide

/-- AbsorbSegComputesAbsorbDomain: a state in phase ABSORB that meets the invariant. -/
theorem witness_fresh_segment : (absorbing .keyless).Inv ∧ (absorbing .keyless).busy = false ∧
    (absorbing .keyless).phase = .absorb ∧ (absorbing .keyless).segOpen = false ∧ (absorbing .keyless).err = .none :=
  ⟨⟨by decide, by decide, by decide, by decide, by decide, by decide⟩, rfl, rfl, rfl, rfl⟩

/-- TagAndHashSequencesComputeTheSource, ShorterOutputIsAPrefix and FinalAndSqueezesComputeFinalOutput: the shortest
output, and a longer one. The state of the last two is that of `witness_fresh_segment`. -/
theorem witness_output_lengths : 1 ≤ 1 ∧ State.reset.regs.busy = false ∧ 32 ≤ 33 := by decide

end Sys2Proof.Machine.Tests
end

namespace Sys2Proof.Machine

/-! SUPPORT. What a command and a captured word can do, in two cases: rejected, or executed by `effectOf`. -/

/-- The command is executed from these registers: the lock does not hold it back, or no error is locked in and its own
checks pass (R151). -/
def Executes (i : Instr) (r : Regs) : Prop :=
  startsAfresh i = true ∨ r.err = .none ∧ ∀ c ∈ checksOf i r, c.passes = true

/-- A command that needs a phase is executed in that phase only (R150). -/
theorem Executes.in_neededPhase {i : Instr} {r : Regs} {p : Phase} (h : Executes i r) (hp : neededPhase i = some p) :
    r.phase = p := by
  have hmem : startsAfresh i = false ∧ checkPhase r p ∈ checksOf i r := by
    cases i <;> cases hp <;> simp [startsAfresh, checksOf]
  obtain ⟨hguarded, hcheck⟩ := hmem
  rcases h with hafresh | ⟨-, hpass⟩
  · simp [hafresh] at hguarded
  · simpa [checkPhase] using hpass _ hcheck

/-- FINAL is executed with no open segment only (R121). -/
theorem Executes.final_closed {r : Regs} (h : Executes .final r) : r.segOpen = false := by
  rcases h with hafresh | ⟨-, hpass⟩
  · cases hafresh
  · simpa [checkClosed] using hpass (checkClosed r) (by simp [checksOf])

/-- A command is rejected with an error, or executed. -/
theorem exec_rejected_or_executed {i : Instr} {s t : State} (h : exec i s = .next t) :
    (∃ code, code ≠ .none ∧ t = s.reject code) ∨
    (Executes i s.regs ∧ t = { s with regs := effectOf i s.din s.regs }) := by
  rcases exec_cases h with ⟨-, herr, rfl⟩ | ⟨-, herr, code, hcode, -, rfl⟩ | ⟨hexec, rfl⟩
  · exact .inl ⟨s.regs.err, herr, by simp [State.reject, Regs.rejected]⟩
  · exact .inl ⟨code, hcode, by simp [State.reject, Regs.rejected, herr]⟩
  · exact .inr ⟨hexec, rfl⟩

/-- The code of a word that does not decode is an error. -/
theorem rejectCode_ne_none (why : DecodeReject) : rejectCode why ≠ .none := by
  cases why <;> decide

/-- A captured word that does not decode is rejected. -/
theorem runCaptured_undecoded {s t : State} {why : DecodeReject} (hd : decode s.cmd = .error why)
    (h : runCaptured s = .next t) : t = s.reject (rejectCode why) := by
  simp only [runCaptured, hd] at h
  cases h
  rfl

/-- A captured word that decodes is run by its meaning. -/
theorem runCaptured_decoded {s : State} {i : Instr} (hd : decode s.cmd = .ok i) : runCaptured s = exec i s := by
  simp only [runCaptured, hd]

/-- A captured word is rejected with an error, or decodes to a command that is executed. -/
theorem runCaptured_rejected_or_executed {s t : State} (h : runCaptured s = .next t) :
    (∃ code, code ≠ .none ∧ t = s.reject code) ∨
    (∃ i, decode s.cmd = .ok i ∧ Executes i s.regs ∧ t = { s with regs := effectOf i s.din s.regs }) := by
  cases hd : decode s.cmd with
  | error why => exact .inl ⟨_, rejectCode_ne_none why, runCaptured_undecoded hd h⟩
  | ok i =>
    rw [runCaptured_decoded hd] at h
    exact (exec_rejected_or_executed h).imp_right fun hexec => ⟨i, rfl, hexec⟩

/-- A command presented to a ready block is the captured word's answer, completed. -/
theorem present_retires {o : Offer} {s t : State} (hb : s.regs.busy = false) (h : present o s = .next t) :
    ∃ u, runCaptured (s.accept o s.inputs) = .next u ∧ t = u.retire := by
  obtain ⟨u, hu⟩ := runCaptured_next (s.accept o s.inputs)
  have ht : present o s = .next u.retire := (present_ready o hb).trans (runCommand_eq hu)
  rw [h] at ht
  cases ht
  exact ⟨u, hu, rfl⟩

/-! ### What a rejection and a command leave unchanged -/

/-- A rejection never leaves ERR = 0, and keeps the error it finds (R152, R153). -/
theorem State.reject_err (s : State) {code : ErrCode} (hcode : code ≠ .none) :
    (s.regs.err ≠ .none → (s.reject code).regs.err = s.regs.err) ∧
    (s.regs.err = .none → (s.reject code).regs.err ≠ .none) := by
  constructor <;> intro he <;> simp [he, hcode]

/-- No command writes outside the registers. -/
theorem exec_sameOutside {i : Instr} {s t : State} (h : exec i s = .next t) : SameOutside s t := by
  rcases exec_rejected_or_executed h with ⟨code, -, rfl⟩ | ⟨-, rfl⟩ <;> exact ⟨rfl, rfl, rfl, rfl⟩

/-! ## O47, O46, O48: the invariant -/

/-! ### The invariant of the registers under what a command can do -/

theorem Phase.code_ne_three (p : Phase) : p.code ≠ 3 := by
  cases p <;> decide

theorem ErrCode.code_le_six (e : ErrCode) : e.code ≤ 6 := by
  cases e <;> decide

theorem Regs.codes_legal (r : Regs) : r.phase.code ≠ 3 ∧ r.err.code ≤ 6 :=
  ⟨r.phase.code_ne_three, r.err.code_le_six⟩

theorem Regs.inv_reset : Regs.reset.Inv where
  partial_open := by simp
  closed_empty := by simp
  squeeze_closed := by simp
  unsqueezed_zero := by simp
  idle_zero _ := rfl
  codes_legal := Regs.codes_legal _

/-- The invariant leaves ERR, REJ and BUSY free. -/
theorem Regs.Inv.with_err_rej_busy {r : Regs} (h : r.Inv) (e : ErrCode) (rej busy : Bool) :
    ({ r with err := e, rej := rej, busy := busy } : Regs).Inv where
  partial_open := h.partial_open
  closed_empty := h.closed_empty
  squeeze_closed := h.squeeze_closed
  unsqueezed_zero := h.unsqueezed_zero
  idle_zero hp := by rw [h.idle_zero hp]
  codes_legal := Regs.codes_legal _

theorem Regs.Inv.with_busy {r : Regs} (h : r.Inv) (busy : Bool) : ({ r with busy := busy } : Regs).Inv :=
  h.with_err_rej_busy r.err r.rej busy

theorem Regs.Inv.rejected {r : Regs} (h : r.Inv) (code : ErrCode) : (r.rejected code).Inv :=
  h.with_err_rej_busy _ true r.busy

theorem Regs.inv_zeroized (r : Regs) : r.zeroized.Inv :=
  Regs.inv_reset.with_busy r.busy

theorem Regs.inv_started (r : Regs) (m : Mode) (k0 k1 : Word) : (r.started m k0 k1).Inv where
  partial_open := by simp
  closed_empty := by simp
  squeeze_closed := by simp
  unsqueezed_zero := by simp
  idle_zero := by simp
  codes_legal := Regs.codes_legal _

/-- Registers in phase ABSORB meet the invariant if T and OUT are those of registers outside SQUEEZE that do, and the
segment's flags and length agree with each other. -/
theorem Regs.Inv.absorbing {r r' : Regs} (h : r.Inv) (hp : r.phase = .absorb) (hp' : r'.phase = .absorb)
    (hfin : SameFinalizer r r') (hpartial : r'.partialSeg = true → r'.segOpen = true)
    (hclosed : r'.segOpen = false → r'.len = 0) : r'.Inv where
  partial_open := hpartial
  closed_empty := hclosed
  squeeze_closed := by simp [hp']
  unsqueezed_zero _ := by
    obtain ⟨ht, hout⟩ := hfin
    rw [ht, hout]
    exact h.unsqueezed_zero (by simp [hp])
  idle_zero := by simp [hp']
  codes_legal := Regs.codes_legal _

/-- Registers in phase SQUEEZE meet the invariant if their segment is that of registers that do, with none open. -/
theorem Regs.Inv.squeezing {r r' : Regs} (h : r.Inv) (hclosed : r.segOpen = false) (hp' : r'.phase = .squeeze)
    (hseg : SameSegment r r') : r'.Inv := by
  obtain ⟨hlen, hopen, hpart⟩ := hseg
  have hempty : r'.segOpen = false ∧ r'.partialSeg = false ∧ r'.len = 0 := by
    refine ⟨hopen.trans hclosed, ?_, hlen.trans (h.closed_empty hclosed)⟩
    rw [hpart]
    exact Bool.eq_false_iff.2 fun hpt => by simp [h.partial_open hpt] at hclosed
  exact {
    partial_open := by simp [hempty]
    closed_empty := by simp [hempty]
    squeeze_closed := fun _ => hempty
    unsqueezed_zero := by simp [hp']
    idle_zero := by simp [hp']
    codes_legal := Regs.codes_legal _ }

/-- An executed command keeps the invariant of the registers. -/
theorem Regs.Inv.executed {i : Instr} {r : Regs} (h : r.Inv) (hexec : Executes i r) (din : Block) :
    (effectOf i din r).Inv := by
  cases i with
  | initHash | initKey => exact r.inv_started _ _ _
  | clear => exact r.inv_zeroized
  | absorb n =>
    have hp := hexec.in_neededPhase rfl
    exact h.absorbing hp hp ⟨rfl, rfl⟩ (fun _ => rfl) nofun
  | endMsg | endCtx =>
    have hp := hexec.in_neededPhase rfl
    exact h.absorbing hp hp ⟨rfl, rfl⟩ nofun (fun _ => rfl)
  | update =>
    have hp := hexec.in_neededPhase rfl
    exact h.absorbing hp hp ⟨rfl, rfl⟩ h.partial_open h.closed_empty
  | final => exact h.squeezing hexec.final_closed rfl ⟨rfl, rfl, rfl⟩
  | squeeze =>
    have hp := hexec.in_neededPhase rfl
    exact h.squeezing (h.squeeze_closed hp).1 hp ⟨rfl, rfl, rfl⟩

/-- A captured word, executed or rejected, keeps the invariant of the registers. -/
theorem runCaptured_keeps_regs_inv {s t : State} (h : s.regs.Inv) (hrun : runCaptured s = .next t) : t.regs.Inv := by
  rcases runCaptured_rejected_or_executed hrun with ⟨code, -, rfl⟩ | ⟨i, -, hexec, rfl⟩
  · exact h.rejected code
  · exact h.executed hexec s.din

/-! ### The invariant of the state -/

theorem State.inv_retire {s : State} (h : s.regs.Inv) : s.retire.Inv :=
  ⟨h.with_busy false, rfl, rfl, rfl⟩

theorem State.inv_hardReset (s : State) : s.hardReset.Inv :=
  ⟨Regs.inv_reset, rfl, rfl, rfl⟩

/-- The invariant does not read what the host does next. -/
theorem State.Inv.with_inputs {s : State} (h : s.Inv) (inputs : List HostInput) :
    ({ s with inputs := inputs } : State).Inv :=
  ⟨h.regs, h.ready, h.uncaptured⟩

/-- Settles O46: the state after reset is that of a reset between commands. -/
theorem resetMeetsTheInvariant : Obligations.ResetMeetsTheInvariant :=
  State.inv_hardReset State.reset

/-- Settles O47, by the cases of a step: the one that runs a command keeps the invariant by
`runCaptured_keeps_regs_inv`, and the others write no register but BUSY or reset them all. -/
theorem everyStepKeepsTheInvariant : Obligations.EveryStepKeepsTheInvariant := by
  intro s t h hstep
  rcases step_cases hstep with ⟨-, rfl⟩ | ⟨-, -, rfl⟩ | ⟨-, first, later, rest, o, u, -, -, hrun, rfl⟩ |
    ⟨-, o, rest, -, rfl⟩ | ⟨-, rest, -, rfl⟩ | ⟨-, o, rest, -, rfl⟩
  · exact State.inv_retire h.regs
  · exact h
  · exact State.inv_retire (runCaptured_keeps_regs_inv (h.regs.with_busy true) hrun)
  · exact h.with_inputs rest
  · exact s.inv_hardReset.with_inputs rest
  · exact State.inv_hardReset _

/-- Every state a run can be in meets the invariant. -/
theorem Reachable.inv {t : State} (h : Reachable t) : t.Inv := by
  induction h with
  | reset inputs => exact State.Inv.with_inputs resetMeetsTheInvariant inputs
  | next _ taken ih => exact everyStepKeepsTheInvariant _ _ ih taken

/-- Settles O48: every reachable state meets the invariant, whose clauses these are. -/
theorem reachableStatesMeetTheSixInvariants : Obligations.ReachableStatesMeetTheSixInvariants := by
  intro t ht
  have h := ht.inv.regs
  refine ⟨h.partial_open, h.closed_empty, h.squeeze_closed, h.unsqueezed_zero, fun hidle => ?_, h.codes_legal⟩
  rw [h.idle_zero hidle]
  exact ⟨rfl, rfl, rfl, rfl, rfl, rfl, rfl, rfl, rfl⟩

/-! ## O24, O17: BUSY and STATUS -/

/-- Settles O24, by the cases of a step: each completes a command, resets the block, or leaves BUSY = 0 as it was. -/
theorem busyIsZeroAfterEveryStep : Obligations.BusyIsZeroAfterEveryStep := by
  intro s t hstep
  rcases step_cases hstep with ⟨-, rfl⟩ | ⟨hb, -, rfl⟩ | ⟨-, first, later, rest, o, u, -, -, -, rfl⟩ |
    ⟨hb, o, rest, -, rfl⟩ | ⟨-, rest, -, rfl⟩ | ⟨-, o, rest, -, rfl⟩
  · rfl
  · exact hb
  · rfl
  · exact hb
  · rfl
  · rfl

theorem State.statusPort_ready {s : State} (h : s.regs.busy = false) : s.statusPort = s.regs.status := by
  simp [State.statusPort, h]

theorem State.doutPort_ready {s : State} (h : s.regs.busy = false) : s.doutPort = s.regs.out := by
  simp [State.doutPort, h]

/-! ### The fields of STATUS (R34) -/

section StatusFields

variable (r : Regs)

theorem Regs.status_phase : r.status.extractLsb' 0 2 = r.phase.code := by
  ext k hk
  interval_cases k <;> simp [Regs.status]

theorem Regs.status_mode : r.status.extractLsb' 2 1 = r.mode.code := by
  ext k hk
  interval_cases k
  simp [Regs.status]

theorem Regs.status_err : r.status.extractLsb' 8 4 = r.err.code := by
  ext k hk
  interval_cases k <;> simp [Regs.status]

theorem Regs.status_reserved : r.status.extractLsb' 12 20 = 0 := by
  ext k hk
  interval_cases k <;> simp [Regs.status]

theorem Regs.status_segOpen : r.status.getLsbD 3 = r.segOpen := by simp [Regs.status]

theorem Regs.status_partialSeg : r.status.getLsbD 4 = r.partialSeg := by simp [Regs.status]

theorem Regs.status_busy : r.status.getLsbD 5 = r.busy := by simp [Regs.status]

theorem Regs.status_rej : r.status.getLsbD 6 = r.rej := by simp [Regs.status]

theorem Regs.status_reserved_seven : r.status.getLsbD 7 = false := by simp [Regs.status]

end StatusFields

/-- Settles O17: each field has its own lemma, and the values never read are those no code has. -/
theorem statusFieldsReadTheRegisters : Obligations.StatusFieldsReadTheRegisters := by
  refine ⟨fun r => ?_, rfl, fun s hb => State.statusPort_ready hb, fun s hb => ?_⟩
  · rw [r.status_phase, r.status_err]
    exact ⟨rfl, r.status_mode, r.status_segOpen, r.status_partialSeg, r.status_busy, r.status_rej,
      r.status_reserved_seven, rfl, r.status_reserved, r.phase.code_ne_three, r.err.code_le_six⟩
  · simp [State.statusPort, hb]

/-! ## O44, O45, O51: flags, PHASE and dout -/

/-- Settles O44: a rejection keeps MODE, SEGOPEN and PARTIAL and leaves an error; an executed command writes its row. -/
theorem flagWritesFollowTheTable : Obligations.FlagWritesFollowTheTable := by
  refine ⟨fun s t why hd hrun => ?_, fun i s t h => ?_⟩
  · rw [runCaptured_undecoded hd hrun]
    exact ⟨rfl, rfl, rfl, rfl, s.reject_err (rejectCode_ne_none why)⟩
  · rcases exec_rejected_or_executed h with ⟨code, hcode, rfl⟩ | ⟨-, rfl⟩
    · exact ⟨fun _ => ⟨rfl, rfl, rfl, s.reject_err hcode⟩, nofun⟩
    · refine ⟨fun hrej => by simp [effectOf_rej] at hrej, fun _ => ?_⟩
      cases i <;> exact ⟨rfl, rfl, rfl, rfl⟩

/-- Settles O45: a rejection leaves PHASE; an executed command was in the phase it needs, and its effect sets PHASE. -/
theorem phaseTransitionsFollowTheTable : Obligations.PhaseTransitionsFollowTheTable := by
  refine ⟨⟨rfl, rfl, rfl, Phase.code_ne_three⟩, fun i s t h => ?_, fun s t why hd hrun => ?_, fun _ => rfl⟩
  · rcases exec_rejected_or_executed h with ⟨code, -, rfl⟩ | ⟨hexec, rfl⟩
    · exact ⟨fun _ => rfl, nofun⟩
    · refine ⟨fun hrej => by simp [effectOf_rej] at hrej, fun _ => ?_⟩
      cases i with
      | initHash | initKey | clear => rfl
      | final => exact ⟨hexec.in_neededPhase rfl, hexec.final_closed, rfl⟩
      | absorb _ | endMsg | endCtx | update | squeeze =>
        have hp := hexec.in_neededPhase rfl
        exact ⟨hp, hp⟩
  · rw [runCaptured_undecoded hd hrun]
    rfl

/-- Settles O51: dout of a ready block is OUT, which a rejection and every effect but those four keep. -/
theorem doutHoldsUntilACommandChangesOut : Obligations.DoutHoldsUntilACommandChangesOut := by
  intro o s t hb h
  obtain ⟨u, hrun, rfl⟩ := present_retires hb h
  rw [State.doutPort_ready hb, State.doutPort_ready (s := u.retire) rfl]
  rcases runCaptured_rejected_or_executed hrun with ⟨code, -, rfl⟩ | ⟨i, hd, -, rfl⟩
  · exact .inl rfl
  · cases i with
    | initHash => exact .inr (.inl hd)
    | initKey => exact .inr (.inr (.inl hd))
    | clear => exact .inr (.inr (.inr (.inl hd)))
    | squeeze => exact .inr (.inr (.inr (.inr ⟨hd, rfl⟩)))
    | absorb _ | endMsg | endCtx | final | update => exact .inl rfl

/-! ## O40, O41, O42: frames -/

/-- Settles O40: neither a rejection nor the effect of ABSORB or UPDATE writes these registers. -/
theorem absorbAndUpdateFrame : Obligations.AbsorbAndUpdateFrame := by
  refine fun s t => ⟨fun n h => ?_, fun h => ?_⟩
  · refine ⟨exec_sameOutside h, ?_⟩
    rcases exec_rejected_or_executed h with ⟨code, -, rfl⟩ | ⟨-, rfl⟩ <;>
      exact ⟨⟨rfl, rfl⟩, ⟨rfl, rfl⟩, rfl, rfl, rfl⟩
  · refine ⟨exec_sameOutside h, ?_⟩
    rcases exec_rejected_or_executed h with ⟨code, -, rfl⟩ | ⟨-, rfl⟩ <;>
      exact ⟨⟨rfl, rfl⟩, ⟨rfl, rfl⟩, ⟨rfl, rfl, rfl⟩, rfl, rfl, rfl⟩

/-- Settles O41: neither a rejection nor the effect of an END writes these, the other domain's counter among them. -/
theorem endFrame : Obligations.EndFrame := by
  refine fun s t => ⟨fun h => ?_, fun h => ?_⟩
  · refine ⟨exec_sameOutside h, ?_⟩
    rcases exec_rejected_or_executed h with ⟨code, -, rfl⟩ | ⟨-, rfl⟩ <;>
      exact ⟨⟨rfl, rfl⟩, rfl, rfl, rfl, rfl⟩
  · refine ⟨exec_sameOutside h, ?_⟩
    rcases exec_rejected_or_executed h with ⟨code, -, rfl⟩ | ⟨-, rfl⟩ <;>
      exact ⟨⟨rfl, rfl⟩, rfl, rfl, rfl, rfl⟩

/-- Settles O42: a rejection writes none of these; FINAL's effect keeps OUT, and SQUEEZE's keeps T and PHASE. -/
theorem finalizerFrame : Obligations.FinalizerFrame := by
  refine fun s t => ⟨fun h => ?_, fun h => ?_⟩
  · refine ⟨exec_sameOutside h, ?_⟩
    rcases exec_rejected_or_executed h with ⟨code, -, rfl⟩ | ⟨-, rfl⟩ <;>
      exact ⟨rfl, ⟨rfl, rfl⟩, ⟨rfl, rfl, rfl⟩, rfl, rfl⟩
  · refine ⟨exec_sameOutside h, ?_⟩
    rcases exec_rejected_or_executed h with ⟨code, -, rfl⟩ | ⟨-, rfl⟩ <;>
      exact ⟨rfl, ⟨rfl, rfl⟩, ⟨rfl, rfl, rfl⟩, rfl, rfl, rfl⟩

end Sys2Proof.Machine

namespace Sys2Proof.Machine

/-! ## O12: byte lanes and halves

Byte lanes are told apart bit by bit, at every width: the statement speaks of 256 bits, and words use the same lanes. -/

/-- Bit k of byte i is bit 8i+k (R42). -/
theorem getLsbD_byteAt {w : Nat} (x : BitVec w) (i : Nat) {k : Nat} (hk : k < 8) :
    (byteAt x i).getLsbD k = x.getLsbD (8 * i + k) := by
  simp [byteAt, hk]

/-- Bytes are equal if their eight bits are. -/
theorem byteAt_eq_of_getLsbD {w : Nat} {x : BitVec w} {i : Nat} {b : Byte}
    (h : ∀ k < 8, x.getLsbD (8 * i + k) = b.getLsbD k) : byteAt x i = b :=
  BitVec.eq_of_getLsbD_eq fun k hk => (getLsbD_byteAt x i hk).trans (h k hk)

/-- The first byte of a sequence fills lane 0. -/
theorem byteAt_ofBytes_cons_zero {w : Nat} (hw : 8 ≤ w) (b : Byte) (bs : List Byte) :
    byteAt (ofBytes w (b :: bs)) 0 = b := by
  refine byteAt_eq_of_getLsbD fun k hk => ?_
  have hkw : k < w := by omega
  simp [ofBytes, hk, hkw]

/-- The later bytes of a sequence fill the lanes above. -/
theorem byteAt_ofBytes_cons_succ {w i : Nat} (hi : 8 * (i + 1) + 8 ≤ w) (b : Byte) (bs : List Byte) :
    byteAt (ofBytes w (b :: bs)) (i + 1) = byteAt (ofBytes w bs) i := by
  refine byteAt_eq_of_getLsbD fun k hk => ?_
  have hkw : 8 * (i + 1) + k < w := by omega
  have hlane : 8 * (i + 1) + k - 8 = 8 * i + k := by omega
  have hb : b.getLsbD (8 * (i + 1) + k) = false := BitVec.getLsbD_of_ge _ _ (by omega)
  have habove : ¬ 8 * (i + 1) + k < 8 := by omega
  rw [getLsbD_byteAt _ i hk]
  rw [ofBytes, BitVec.getLsbD_or, BitVec.getLsbD_shiftLeft, BitVec.getLsbD_setWidth, hb, hlane]
  simp [hkw, habove]

/-- Byte i of a sequence stands in lane i, and the lanes past its end are zero (R42). -/
theorem byteAt_ofBytes {w i : Nat} (hi : 8 * i + 8 ≤ w) (bs : List Byte) :
    byteAt (ofBytes w bs) i = bs.getD i 0 := by
  induction bs generalizing i with
  | nil => simp [ofBytes, byteAt]
  | cons b bs ih =>
    cases i with
    | zero => exact byteAt_ofBytes_cons_zero hi b bs
    | succ i => exact (byteAt_ofBytes_cons_succ hi b bs).trans (ih (by omega))

/-- The first half holds bytes [0:16) (R43). -/
theorem byteAt_firstHalf (b : Block) {i : Nat} (hi : i < 16) : byteAt (firstHalf b) i = byteAt b i := by
  refine byteAt_eq_of_getLsbD fun k hk => ?_
  have hword : 8 * i + k < 128 := by omega
  rw [getLsbD_byteAt b i hk]
  simp [firstHalf, hword]

/-- The second half holds bytes [16:32) (R43). -/
theorem byteAt_secondHalf (b : Block) {i : Nat} (hi : i < 16) : byteAt (secondHalf b) i = byteAt b (16 + i) := by
  refine byteAt_eq_of_getLsbD fun k hk => ?_
  have hword : 8 * i + k < 128 := by omega
  have hlane : 128 + (8 * i + k) = 8 * (16 + i) + k := by omega
  rw [getLsbD_byteAt b (16 + i) hk, ← hlane]
  simp [secondHalf, hword]

@[simp] theorem firstHalf_joinHalves (a b : Word) : firstHalf (joinHalves a b) = a :=
  BitVec.extractLsb'_append_eq_right

@[simp] theorem secondHalf_joinHalves (a b : Word) : secondHalf (joinHalves a b) = b :=
  BitVec.extractLsb'_append_eq_left

/-- Settles O12, by the lemmas on lanes and on halves. -/
theorem byteLanesAndHalves : Obligations.ByteLanesAndHalves :=
  ⟨fun b i _ hk => getLsbD_byteAt b i hk, fun bs _ hi => byteAt_ofBytes (by omega) bs,
    fun b _ hi => ⟨byteAt_firstHalf b hi, byteAt_secondHalf b hi⟩,
    fun a b => ⟨firstHalf_joinHalves a b, secondHalf_joinHalves a b⟩⟩

/-! ## O26: runs of lined-up commands -/

theorem answers_busy (os : List Offer) (r : Regs) : (answers os r).1.busy = r.busy := by
  induction os generalizing r with
  | nil => rfl
  | cons o os ih => exact (ih _).trans (answer_busy o r)

/-- The j-th reading of a run is that of the registers its first j+1 commands leave. -/
theorem answers_reading {os : List Offer} {j : Nat} (hj : j < os.length) (r : Regs) :
    (answers os r).2[j]? = some (answers (os.take (j + 1)) r).1.reading := by
  induction os generalizing j r with
  | nil => cases hj
  | cons o os ih =>
    cases j with
    | zero => rfl
    | succ j => exact ih (Nat.lt_of_succ_lt_succ hj) (answer o r)

/-- As many steps as commands are lined up take just these, and leave the registers of their answers (R50). -/
theorem takeSteps_answers (os : List Offer) (rest : List HostInput) {s : State} (hb : s.regs.busy = false)
    (hi : s.inputs = os.map (HostInput.command · []) ++ rest) :
    ∃ t, takeSteps os.length s = .next t ∧ t.regs = (answers os s.regs).1 ∧ t.inputs = rest := by
  induction os generalizing s with
  | nil => exact ⟨s, rfl, rfl, hi⟩
  | cons o os ih =>
    obtain ⟨t, hstep, hregs, hinputs⟩ := step_answer hb hi
    obtain ⟨u, hsteps, huregs, huinputs⟩ := ih (by rw [hregs, answer_busy, hb]) hinputs
    exact ⟨u, (takeSteps_next _ hstep).trans hsteps, by rw [huregs, hregs]; rfl, huinputs⟩

/-- The same for the first k of the commands lined up: the others stay, before the rest. -/
theorem takeSteps_answers_take {os : List Offer} {rest : List HostInput} {s : State} (hb : s.regs.busy = false)
    (hi : s.inputs = os.map (HostInput.command · []) ++ rest) {k : Nat} (hk : k ≤ os.length) :
    ∃ t, takeSteps k s = .next t ∧ t.regs = (answers (os.take k) s.regs).1 ∧
      t.inputs = (os.drop k).map (HostInput.command · []) ++ rest ∧ t.regs.busy = false := by
  have hsplit : s.inputs =
      (os.take k).map (HostInput.command · []) ++ ((os.drop k).map (HostInput.command · []) ++ rest) := by
    rw [hi, ← List.append_assoc, ← List.map_append, List.take_append_drop]
  obtain ⟨t, hsteps, hregs, hinputs⟩ := takeSteps_answers (os.take k) _ hb hsplit
  rw [List.length_take_of_le hk] at hsteps
  exact ⟨t, hsteps, hregs, hinputs, by rw [hregs, answers_busy, hb]⟩

/-- Settles O26: k steps and a run of the first k commands both leave the registers of their answers, and a reading
of that run is the reading of a shorter one's registers. -/
theorem runsComposeLeftToRight : Obligations.RunsComposeLeftToRight := by
  intro os rest s hb hi k hk
  obtain ⟨t, hsteps, hregs, hinputs, htb⟩ := takeSteps_answers_take hb hi hk
  obtain ⟨u, hrun, huregs, -⟩ := runOffers_answers (os.take k) hb
  refine ⟨t, u, _, hsteps, hinputs, htb, hrun, hregs.trans huregs.symm, fun j hj => ?_⟩
  obtain ⟨v, hvsteps, hvregs, -, hvb⟩ := takeSteps_answers_take hb hi (Nat.le_trans hj hk)
  refine ⟨v, hvsteps, ?_⟩
  have hlen : j < (os.take k).length := by rwa [List.length_take_of_le hk]
  rw [answers_reading hlen, List.take_take, Nat.min_eq_left hj, ← hvregs, State.reading_ready hvb]

/-! ## O20, O21: the step and the command port -/

/-- An accepted word that decodes is run by its meaning, and completed. -/
theorem runCommand_decoded {o : Offer} {i : Instr} (hd : decode o.cmd = .ok i) (rest : List HostInput) (s : State) :
    runCommand o rest s = onNext State.retire (exec i (s.accept o rest)) := by
  rw [runCommand, runCaptured_decoded hd]

/-- An accepted word that does not decode is rejected with its code, and completed. -/
theorem runCommand_undecoded {o : Offer} {why : DecodeReject} (hd : decode o.cmd = .error why)
    (rest : List HostInput) (s : State) :
    runCommand o rest s = .next ((s.accept o rest).reject (rejectCode why)).retire := by
  obtain ⟨u, hu⟩ := runCaptured_next (s.accept o rest)
  rw [runCommand_eq hu, runCaptured_undecoded hd hu]

/-- A 32-bit word is presented as it is, before all other inputs (log 3). -/
theorem State.withFetchWord_inputs (s : State) (w : CmdWord) :
    (s.withFetchWord 32 w.toNat).inputs = .command ⟨w, s.din⟩ [] :: s.inputs := by
  have hw : BitVec.ofNat 32 (w.toNat % 2 ^ 32) = w := by
    rw [Nat.mod_eq_of_lt w.isLt, BitVec.ofNat_toNat, BitVec.setWidth_eq]
  rw [State.withFetchWord, hw, State.withWordPresented_inputs]

/-- A block that is not ready completes the command in it (log 5). -/
theorem step_busy {s : State} (hb : s.regs.busy = true) : step s = .next s.retire := by
  simp [step, State.cmdReady, hb]

/-- Settles O20: the ready block takes the command it is offered, and the word that decodes or does not is run. -/
theorem stepRunsTheDecodedCommand : Obligations.StepRunsTheDecodedCommand := by
  refine ⟨fun s o rest hb hi => ⟨fun i hd => ?_, fun why hd => ?_⟩, fun s w i hd => ?_⟩
  · exact (step_command hb hi).trans (runCommand_decoded hd rest s)
  · exact (step_command hb hi).trans (runCommand_undecoded hd rest s)
  · exact (step_command rfl (s.withFetchWord_inputs w)).trans (runCommand_decoded hd _ _)

/-- Settles O21: readiness and acceptance are these by definition, and a step from BUSY = 1 only completes. -/
theorem acceptanceCapturesCommandAndData : Obligations.AcceptanceCapturesCommandAndData :=
  ⟨fun _ => rfl, fun _ _ _ => rfl, fun s hb => ⟨s.retire, step_busy hb, rfl, rfl⟩⟩

end Sys2Proof.Machine

namespace Sys2Proof

/-! ## The fields of a command word (R56, for O2 and O1)

OP, F, N and the reserved bits are digits of the word's number, so a word is put together from its fields, and taken
apart into them, by arithmetic. -/

/-- The bits that no field covers are zero: [31:14] and [7:5] (R56). -/
def reservedZero (w : CmdWord) : Prop := w.toNat / 2 ^ 14 = 0 ∧ w.toNat / 2 ^ 5 % 2 ^ 3 = 0

theorem toNat_extractLsb'_eq (w : CmdWord) (start len : Nat) :
    (w.extractLsb' start len).toNat = w.toNat / 2 ^ start % 2 ^ len := by
  rw [BitVec.extractLsb'_toNat, Nat.shiftRight_eq_div_pow]

theorem extractLsb'_eq_zero_iff (w : CmdWord) (start len : Nat) :
    w.extractLsb' start len = 0#len ↔ w.toNat / 2 ^ start % 2 ^ len = 0 := by
  rw [← toNat_extractLsb'_eq, ← BitVec.toNat_inj, BitVec.toNat_ofNat, Nat.zero_mod]

theorem toNat_opField (w : CmdWord) : (opField w).toNat = w.toNat % 2 ^ 4 := by
  rw [opField, toNat_extractLsb'_eq, Nat.pow_zero, Nat.div_one]

theorem toNat_fField (w : CmdWord) : (fField w).toNat = w.toNat / 2 ^ 4 % 2 := by
  have hbit : ∀ b : BitVec 1, (b == 1#1).toNat = b.toNat := by decide
  rw [fField, hbit, toNat_extractLsb'_eq, Nat.pow_one]

theorem nField_eq (w : CmdWord) : nField w = w.toNat / 2 ^ 8 % 2 ^ 6 :=
  toNat_extractLsb'_eq w 8 6

theorem toNat_wordOf (op : BitVec 4) (f : Bool) (n : Nat) :
    (wordOf op f n).toNat = op.toNat + 2 ^ 4 * f.toNat + 2 ^ 8 * (n % 2 ^ 6) := by
  have hop := op.isLt
  have hf := f.toNat_le
  have hflag : op.toNat ||| f.toNat <<< 4 = op.toNat + 2 ^ 4 * f.toNat := by
    rw [Nat.lor_comm, ← Nat.shiftLeft_add_eq_or_of_lt hop]
    omega
  have hcount : (op.toNat + 2 ^ 4 * f.toNat) ||| (n % 2 ^ 6) <<< 8 =
      op.toNat + 2 ^ 4 * f.toNat + 2 ^ 8 * (n % 2 ^ 6) := by
    rw [Nat.lor_comm, ← Nat.shiftLeft_add_eq_or_of_lt (by omega)]
    omega
  rw [← hcount, ← hflag]
  simp only [wordOf, BitVec.toNat_or, BitVec.toNat_shiftLeft, BitVec.toNat_setWidth, BitVec.toNat_ofBool,
    BitVec.toNat_ofNat]
  simp (disch := omega) only [Nat.mod_eq_of_lt]

theorem noneAboveOp_iff (w : CmdWord) :
    noneAboveOp w = true ↔ fField w = false ∧ nField w = 0 ∧ reservedZero w := by
  have hf := toNat_fField w
  rw [noneAboveOp, beq_iff_eq, extractLsb'_eq_zero_iff, ← Bool.toNat_eq_zero, nField_eq, reservedZero]
  omega

theorem noneAboveF_iff (w : CmdWord) : noneAboveF w = true ↔ nField w = 0 ∧ reservedZero w := by
  rw [noneAboveF, beq_iff_eq, extractLsb'_eq_zero_iff, nField_eq, reservedZero]
  omega

theorem onlyOpAndN_iff (w : CmdWord) : onlyOpAndN w = true ↔ fField w = false ∧ reservedZero w := by
  have hf := toNat_fField w
  rw [onlyOpAndN, Bool.and_eq_true, beq_iff_eq, beq_iff_eq, extractLsb'_eq_zero_iff, extractLsb'_eq_zero_iff,
    ← Bool.toNat_eq_zero, reservedZero]
  omega

/-- A word is the one with these fields exactly if they are its fields and its reserved bits are zero. -/
theorem eq_wordOf_iff {w : CmdWord} {op : BitVec 4} {f : Bool} {n : Nat} (hn : n < 64) :
    w = wordOf op f n ↔ opField w = op ∧ fField w = f ∧ nField w = n ∧ reservedZero w := by
  have hop := op.isLt
  have hf := f.toNat_le
  have hff : fField w = f ↔ (fField w).toNat = f.toNat := by
    cases fField w <;> cases f <;> decide
  rw [← BitVec.toNat_inj, ← BitVec.toNat_inj, hff, toNat_wordOf, toNat_opField, toNat_fField,
    nField_eq, reservedZero]
  omega

/-! ## O2, O1: what decodes (R57, R60) -/

theorem legalIf_ok_iff {test : Bool} {i j : Instr} : legalIf test i = .ok j ↔ test = true ∧ i = j := by
  cases test <;> simp [legalIf]

theorem legalIf_ne_opcode (test : Bool) (i : Instr) : legalIf test i ≠ .error .opcode := by
  cases test <;> simp [legalIf]

/-- The word of a well-formed instruction decodes to it: its fields pass the test of its row (R60). -/
theorem decode_encode {i : Instr} (h : i.wellFormed = true) : decode (encode i) = .ok i := by
  cases i with
  | absorb n =>
    have hn : n < 64 := by simpa [Instr.wellFormed] using h
    obtain ⟨hop, hf, hcount, hres⟩ := (eq_wordOf_iff hn).1 (rfl : encode (.absorb n) = wordOf 2 false n)
    have htest : onlyOpAndN (encode (.absorb n)) = true := (onlyOpAndN_iff _).2 ⟨hf, hres⟩
    simp [decode, hop, hcount, htest, legalIf]
  | initHash | initKey | endMsg | endCtx | final | squeeze | update | clear => decide

/-- With no bit set above F, OP and F are all there is to a word. -/
theorem eq_wordOf_of_noneAboveF {w : CmdWord} {op : BitVec 4} {f : Bool} (hop : (opField w).toNat = op.toNat)
    (hf : fField w = f) (h : noneAboveF w = true) : w = wordOf op f 0 := by
  obtain ⟨hn, hres⟩ := (noneAboveF_iff w).1 h
  exact (eq_wordOf_iff (by decide)).2 ⟨BitVec.eq_of_toNat_eq hop, hf, hn, hres⟩

/-- With no bit set above OP, OP is all there is to a word. -/
theorem eq_wordOf_of_noneAboveOp {w : CmdWord} {op : BitVec 4} (hop : (opField w).toNat = op.toNat)
    (h : noneAboveOp w = true) : w = wordOf op false 0 := by
  obtain ⟨hf, hn, hres⟩ := (noneAboveOp_iff w).1 h
  exact (eq_wordOf_iff (by decide)).2 ⟨BitVec.eq_of_toNat_eq hop, hf, hn, hres⟩

/-- With no bit set outside OP and N, these are all there is to a word. -/
theorem eq_wordOf_of_onlyOpAndN {w : CmdWord} {op : BitVec 4} (hop : (opField w).toNat = op.toNat)
    (h : onlyOpAndN w = true) : w = wordOf op false (nField w) := by
  obtain ⟨hf, hres⟩ := (onlyOpAndN_iff w).1 h
  exact (eq_wordOf_iff (w.extractLsb' 8 6).isLt).2 ⟨BitVec.eq_of_toNat_eq hop, hf, rfl, hres⟩

/-- A word that decodes is the word of a well-formed instruction: the test of each OP leaves no other bit free. -/
theorem wellFormed_and_encode_of_decode {w : CmdWord} {i : Instr} (h : decode w = .ok i) :
    i.wellFormed = true ∧ encode i = w := by
  unfold decode at h
  split at h
  case h_1 hop | h_3 hop =>
    obtain ⟨htest, rfl⟩ := legalIf_ok_iff.1 h
    cases hf : fField w <;> exact ⟨rfl, (eq_wordOf_of_noneAboveF hop hf htest).symm⟩
  case h_2 hop =>
    obtain ⟨htest, rfl⟩ := legalIf_ok_iff.1 h
    exact ⟨decide_eq_true (w.extractLsb' 8 6).isLt, (eq_wordOf_of_onlyOpAndN hop htest).symm⟩
  case h_4 hop | h_5 hop | h_6 hop | h_7 hop =>
    obtain ⟨htest, rfl⟩ := legalIf_ok_iff.1 h
    exact ⟨rfl, (eq_wordOf_of_noneAboveOp hop htest).symm⟩
  case h_8 => cases h

/-- Settles O2: the fields of a word determine it, and decoding reads them. -/
theorem decodeAndEncodeAgree : Obligations.DecodeAndEncodeAgree :=
  ⟨fun _ => decode_encode, fun _ _ => wellFormed_and_encode_of_decode⟩

theorem decode_ok_iff {w : CmdWord} {i : Instr} : decode w = .ok i ↔ i.wellFormed = true ∧ w = encode i := by
  constructor
  · intro h
    obtain ⟨hwf, hw⟩ := wellFormed_and_encode_of_decode h
    exact ⟨hwf, hw.symm⟩
  · rintro ⟨hwf, rfl⟩
    exact decode_encode hwf

/-- A word is rejected with OPCODE exactly if its OP is reserved (R61). -/
theorem decode_opcode_iff (w : CmdWord) : decode w = .error .opcode ↔ opField w = 0x0 ∨ 0x8 ≤ opField w := by
  rw [← BitVec.toNat_inj, BitVec.le_def]
  unfold decode
  split
  case h_8 h1 h2 h3 h4 h5 h6 h7 =>
    simp only [BitVec.ofNat_eq_ofNat, BitVec.toNat_ofNat, true_iff, imp_false] at *
    omega
  all_goals simp [legalIf_ne_opcode, *]

/-- Every other word that decodes to nothing is rejected with FIELD (R62). -/
theorem decode_field_iff (w : CmdWord) :
    decode w = .error .field ↔ ¬ (opField w = 0x0 ∨ 0x8 ≤ opField w) ∧ ∀ i : Instr, decode w ≠ .ok i := by
  have hop := decode_opcode_iff w
  cases hd : decode w with
  | ok i => exact iff_of_false (by simp) fun h => h.2 i rfl
  | error why =>
    cases why with
    | opcode => exact iff_of_false (by simp) fun h => h.1 (hop.1 hd)
    | field => exact iff_of_true rfl ⟨fun hres => by simpa [hd] using hop.2 hres, by simp⟩

/-- ABSORB's word is its OP with the count at [13:8] (R59). -/
theorem encode_absorb {n : Nat} (hn : n ≤ 63) : encode (.absorb n) = 0x00000002 ||| (BitVec.ofNat 32 n <<< 8) := by
  have hcount : (BitVec.ofNat 6 n).setWidth 32 = BitVec.ofNat 32 n :=
    BitVec.setWidth_ofNat_of_le_of_lt (by decide) (by omega)
  rw [encode, wordOf, hcount]
  rfl

/-- Settles O1: what decodes is a well-formed instruction's word, which is the listed one, and the two codes part
the other words. -/
theorem decodeAcceptsExactlyTheLegalWords : Obligations.DecodeAcceptsExactlyTheLegalWords := by
  refine fun w => ⟨fun i => ?_, decode_opcode_iff w, ?_⟩
  · rw [decode_ok_iff]
    cases i with
    | absorb n =>
      have hn : (Instr.absorb n).wellFormed = true ↔ n ≤ 63 := by
        simp [Instr.wellFormed, Nat.lt_succ_iff]
      rw [hn]
      exact and_congr_right fun hle => by rw [encode_absorb hle]
    | initHash | initKey | endMsg | endCtx | final | squeeze | update | clear => exact and_iff_right rfl
  · rw [← BitVec.not_le, ← not_or]
    exact decode_field_iff w

/-! ## O3, O4: the opcode table and the example words (R72, R73) -/

theorem selectsRow (i : Instr) : Laws.SelectsRow.Statement i := by
  cases i with
  | initHash => exact Laws.SelectsRow.initHash
  | initKey => exact Laws.SelectsRow.initKey
  | absorb n => exact Laws.SelectsRow.absorb n
  | endMsg => exact Laws.SelectsRow.endMsg
  | endCtx => exact Laws.SelectsRow.endCtx
  | final => exact Laws.SelectsRow.final
  | squeeze => exact Laws.SelectsRow.squeeze
  | update => exact Laws.SelectsRow.update
  | clear => exact Laws.SelectsRow.clear

/-- The word of a decoded instruction selects a row of the table, the instruction's own (R73). -/
theorem selects_row_of_decode {w : CmdWord} {i : Instr} (h : decode w = .ok i) :
    w &&& i.row.mask = i.row.pattern ∧ i.row ∈ opcodeTable := by
  obtain ⟨hwf, rfl⟩ := decode_ok_iff.1 h
  exact selectsRow i hwf

/-- A field that a row's mask covers has the pattern's value in a word that selects the row. -/
theorem extractLsb'_of_selected {w mask pattern : CmdWord} (h : w &&& mask = pattern) {start len : Nat}
    (hmask : mask.extractLsb' start len = BitVec.allOnes len) :
    w.extractLsb' start len = pattern.extractLsb' start len := by
  rw [← h, BitVec.extractLsb'_and, hmask, BitVec.and_allOnes]

/-- ABSORB's row fixes OP and every bit outside N. -/
theorem decode_of_absorb_row {w : CmdWord} (h : w &&& 0xFFFFC0FF = 0x00000002) :
    decode w = .ok (.absorb (nField w)) := by
  have hop : opField w = 2 := extractLsb'_of_selected h (by decide)
  have hlow : w.extractLsb' 4 4 = 0#4 := extractLsb'_of_selected h (by decide)
  have hhigh : w.extractLsb' 14 18 = 0#18 := extractLsb'_of_selected h (by decide)
  simp [decode, hop, onlyOpAndN, hlow, hhigh, legalIf]

/-- A row whose mask covers every bit is selected by its pattern only. -/
theorem decode_of_full_row {w : CmdWord} {i : Instr} (hwf : i.wellFormed = true)
    (hmask : i.row.mask = BitVec.allOnes 32) (hpattern : i.row.pattern = encode i)
    (h : w &&& i.row.mask = i.row.pattern) : decode w = .ok i := by
  rw [hmask, BitVec.and_allOnes, hpattern] at h
  exact decode_ok_iff.2 ⟨hwf, h⟩

/-- A word that selects an instruction's row decodes to an instruction of that row (R73): but for ABSORB's, the row
has one word. -/
theorem decode_of_selects_row {w : CmdWord} {i : Instr} (h : w &&& i.row.mask = i.row.pattern) :
    ∃ j : Instr, decode w = .ok j ∧ j.row = i.row := by
  cases i with
  | absorb n => exact ⟨_, decode_of_absorb_row h, rfl⟩
  | initHash | initKey | endMsg | endCtx | final | squeeze | update | clear =>
    exact ⟨_, decode_of_full_row rfl rfl rfl h, rfl⟩

theorem exists_row_of_mem_opcodeTable {r : OpcodeRow} (h : r ∈ opcodeTable) : ∃ i : Instr, i.row = r := by
  simp only [opcodeTable, List.mem_cons, List.not_mem_nil, or_false] at h
  rcases h with rfl | rfl | rfl | rfl | rfl | rfl | rfl | rfl | rfl <;> exact ⟨_, rfl⟩

/-- Settles O3: rows and decoding agree, so no word has two rows, and a word with none decodes to nothing. -/
theorem opcodeTableSelectsWhatDecodes : Obligations.OpcodeTableSelectsWhatDecodes := by
  refine ⟨rfl, fun w => ?_⟩
  have decodes : ∀ r ∈ opcodeTable, w &&& r.mask = r.pattern → ∃ i : Instr, decode w = .ok i ∧ i.row = r := by
    intro r hr hw
    obtain ⟨i, rfl⟩ := exists_row_of_mem_opcodeTable hr
    exact decode_of_selects_row hw
  refine ⟨fun r hr r' hr' hw hw' => ?_, decodes, fun hnone => ?_⟩
  · obtain ⟨i, hi, rfl⟩ := decodes r hr hw
    obtain ⟨j, hj, rfl⟩ := decodes r' hr' hw'
    have hij : i = j := Except.ok.inj (hi.symm.trans hj)
    rw [hij]
  · have hundecoded : ∀ i : Instr, decode w ≠ .ok i := by
      intro i hi
      obtain ⟨hrow, hmem⟩ := selects_row_of_decode hi
      exact hnone _ hmem hrow
    split
    case isTrue hres => exact (decode_opcode_iff w).2 hres
    case isFalse hres => exact (decode_field_iff w).2 ⟨hres, hundecoded⟩

/-- Settles O4: the thirteen words are evaluated. -/
theorem exampleWordsDecode : Obligations.ExampleWordsDecode := by
  unfold Obligations.ExampleWordsDecode
  decide

end Sys2Proof

namespace Sys2Proof.Machine

/-! ## O49: the din bytes a command ignores (R65) -/

/-- A port value is its 32 bytes (R42). -/
theorem eq_of_byteAt_eq {a b : Block} (h : ∀ j < 32, byteAt a j = byteAt b j) : a = b := by
  refine BitVec.eq_of_getLsbD_eq fun k hk => ?_
  have hbit : k % 8 < 8 := Nat.mod_lt k (by decide)
  rw [← Nat.div_add_mod k 8, ← getLsbD_byteAt a _ hbit, ← getLsbD_byteAt b _ hbit, h (k / 8) (by omega)]

/-- The chunk of N bytes is the same for values that agree on them. -/
theorem chunkOf_eq {a b : Block} {n : Nat} (h : ∀ j < n, byteAt a j = byteAt b j) : chunkOf a n = chunkOf b n :=
  List.map_congr_left fun j hj => h j (List.mem_range.1 hj)

/-- The effect of a command depends on the din bytes it reads only (R65). -/
theorem effectOf_din {i : Instr} {a b : Block} (h : ∀ j < dinBytesRead i, byteAt a j = byteAt b j) (r : Regs) :
    effectOf i a r = effectOf i b r := by
  cases i with
  | initKey | update => rw [eq_of_byteAt_eq h]
  | absorb n =>
    have hchunk : chunkOf a n = chunkOf b n := chunkOf_eq h
    simp only [effectOf, absorbEffect, hchunk]
  | initHash | endMsg | endCtx | final | squeeze | clear => rfl

/-- A guarded command neither reads nor writes din but through its effect. -/
theorem guarded_with_din (cs : List Check) (effect : Regs → Regs) (s : State) (d : Block) :
    guarded cs effect { s with din := d } = { guarded cs effect s with din := d } := by
  rcases guarded_cases cs effect s with ⟨he, -⟩ | ⟨he, code, hf, -⟩ | ⟨he, hc, -⟩
  · rw [guarded_locked he, guarded_locked (s := { s with din := d }) he]
  · rw [guarded_fails he hf, guarded_fails (s := { s with din := d }) he hf]
  · rw [guarded_passes he hc, guarded_passes (s := { s with din := d }) he hc]

/-- Settles O49: din reaches a command's effect only, and there through the bytes it reads. -/
theorem ignoredDinBytesHaveNoEffect : Obligations.IgnoredDinBytesHaveNoEffect := by
  intro i s d hagree
  have heffect : effectOf i d = effectOf i s.din := funext (effectOf_din hagree)
  cases ha : startsAfresh i with
  | true => rw [exec_afresh ha, exec_afresh ha, heffect, onNext]
  | false => rw [exec_guarded ha, exec_guarded ha, heffect, guarded_with_din, onNext]

end Sys2Proof.Machine

namespace Sys2Proof.Machine

/-! ## O6: the steps of the round, byte by byte -/

/-- Byte j of a word is the one it was made of (R11). -/
theorem byteAt_wordOfFn (f : Nat → Byte) {j : Nat} (hj : j < 16) : byteAt (wordOfFn f) j = f j := by
  rw [wordOfFn, byteAt_ofBytes (by omega)]
  simp [hj]

/-- The sixteen bytes of a word are those it was made of. -/
theorem bytesOf_wordOfFn (f : Nat → Byte) : bytesOf (wordOfFn f) 16 = (List.range 16).map f :=
  List.map_congr_left fun _ hj => byteAt_wordOfFn f (List.mem_range.1 hj)

/-- Byte j after SubBytes (R80). -/
theorem byteAt_subBytes (w : Word) {j : Nat} (hj : j < 16) : byteAt (subBytes w) j = sbox (byteAt w j) :=
  byteAt_wordOfFn _ hj

/-- The element of row r and column c after ShiftRows (R79, R81). -/
theorem byteAt_shiftRows (w : Word) {r c : Nat} (hr : r < 4) (hc : c < 4) :
    byteAt (shiftRows w) (r + 4 * c) = byteAt w (r + 4 * ((c + r) % 4)) := by
  have hrow : (r + 4 * c) % 4 = r := by omega
  have hcol : (r + 4 * c) / 4 = c := by omega
  rw [shiftRows, byteAt_wordOfFn _ (by omega), hrow, hcol]

/-- The element of row r and column c after MixColumns (R79, R82). -/
theorem byteAt_mixColumns (w : Word) {r c : Nat} (hr : r < 4) (hc : c < 4) :
    byteAt (mixColumns w) (4 * c + r) =
      mixRow (byteAt w (4 * c)) (byteAt w (4 * c + 1)) (byteAt w (4 * c + 2)) (byteAt w (4 * c + 3)) r := by
  have hrow : (4 * c + r) % 4 = r := by omega
  have hcol : (4 * c + r) / 4 = c := by omega
  rw [mixColumns, byteAt_wordOfFn _ (by omega), hrow, hcol]

/-- Settles O6: each step makes its word byte by byte, and byte r + 4c is the element of row r and column c. -/
theorem roundStepsByteByByte : Obligations.RoundStepsByteByByte := by
  refine ⟨fun _ _ => rfl, fun w => ⟨fun _ hj => byteAt_subBytes w hj, fun _ _ hr hc => byteAt_shiftRows w hr hc,
    bytesOf_wordOfFn _, fun c hc => ⟨?_, ?_, ?_, ?_⟩⟩⟩
  · exact byteAt_mixColumns w (r := 0) (by decide) hc
  · exact byteAt_mixColumns w (r := 1) (by decide) hc
  · exact byteAt_mixColumns w (r := 2) (by decide) hc
  · exact byteAt_mixColumns w (r := 3) (by decide) hc

/-! ## O5: the S-box -/

/-- a^254 is the inverse of every byte but 0 (R77), byte by byte. -/
theorem gmul_ginv (a : Byte) : gmul a (ginv a) = if a = 0 then 0 else 1 := by
  revert a
  decide +kernel

/-- The table of R78 holds the algebraic S-box, entry for entry. -/
theorem sbox_eq_sboxAlgebraic (a : Byte) : sbox a = sboxAlgebraic a := by
  revert a
  decide +kernel

theorem sbox_zero : sbox 0 = 0x63 := by decide

/-- Settles O5: both facts about all bytes are checked on the 256 of them. -/
theorem sboxTableIsTheAlgebraicSbox : Obligations.SboxTableIsTheAlgebraicSbox :=
  ⟨gmul_ginv, by decide +kernel, sbox_eq_sboxAlgebraic, sbox_zero, by decide, by decide⟩

/-! ## O7, O9: Update's words and its message words -/

/-- AESRound's key is added last, so a difference in it goes through (R90). -/
theorem aesRound_xor_key (x k d : Word) : aesRound x (k ^^^ d) = aesRound x k ^^^ d :=
  (BitVec.xor_assoc _ k d).symm

/-- Settles O7: Update gives m0 and m1 to AESRound's key argument, of word 0 and of word 4. -/
theorem messageWordsEnterByXor : Obligations.MessageWordsEnterByXor :=
  ⟨aesRound_xor_key, fun s m0 m1 => by simp [permUpdate, aesRound_xor_key]⟩

/-- Settles O9: these are the eight words by definition. -/
theorem updateComputesEightWordsInParallel : Obligations.UpdateComputesEightWordsInParallel :=
  fun _ _ _ => rfl

/-! ## O8: words of equal bytes -/

/-- A word depends on the first sixteen bytes given for it. -/
theorem wordOfFn_congr {f g : Nat → Byte} (h : ∀ j < 16, f j = g j) : wordOfFn f = wordOfFn g :=
  congrArg (ofBytes 128) (List.map_congr_left fun j hj => h j (List.mem_range.1 hj))

/-- MixColumns adds the four bytes of a column with the factors 2, 3, 1, 1, whose sum is 1 (R91). -/
theorem gmul_factors_cancel (v : Byte) : gmul2 v ^^^ gmul3 v ^^^ v ^^^ v = v := by
  rw [gmul2, gmul3, ← BitVec.xor_assoc, BitVec.xor_self, BitVec.zero_xor, BitVec.xor_self, BitVec.zero_xor]

/-- Every row of MixColumns gives v for a column of four bytes v (R91). -/
theorem mixRow_equal (v : Byte) (r : Nat) : mixRow v v v v r = v := by
  unfold mixRow
  split <;> refine Eq.trans ?_ (gmul_factors_cancel v) <;> ac_rfl

theorem subBytes_zero : subBytes 0 = wordOfFn fun _ => 0x63 :=
  wordOfFn_congr fun j _ => by
    have hbyte : byteAt (0 : Word) j = 0 := by simp [byteAt]
    rw [hbyte, sbox_zero]

theorem shiftRows_equalBytes (v : Byte) : shiftRows (wordOfFn fun _ => v) = wordOfFn fun _ => v :=
  wordOfFn_congr fun j hj => byteAt_wordOfFn _ (by omega)

theorem mixColumns_equalBytes (v : Byte) : mixColumns (wordOfFn fun _ => v) = wordOfFn fun _ => v := by
  refine wordOfFn_congr fun j hj => ?_
  simp (disch := omega) only [byteAt_wordOfFn, mixRow_equal]

/-- AESRound of two zero words: the later steps keep SubBytes' sixteen bytes 0x63. -/
theorem aesRound_zero : aesRound 0 0 = wordOfFn fun _ => 0x63 := by
  rw [aesRound, subBytes_zero, shiftRows_equalBytes, mixColumns_equalBytes]
  exact BitVec.xor_zero

/-- Settles O8: Update of zeros makes each of its words by AESRound of two zero words. -/
theorem roundFixesWordsOfEqualBytes : Obligations.RoundFixesWordsOfEqualBytes := by
  refine ⟨subBytes_zero, fun v => ⟨shiftRows_equalBytes v, mixColumns_equalBytes v, gmul_factors_cancel v⟩,
    aesRound_zero, ?_⟩
  have hkey : (0 : Word) ^^^ 0 = 0 := BitVec.xor_zero
  simp only [permUpdate, Perm.zeros, hkey, aesRound_zero]

/-! ## O10, O11: Initialize and the round constants -/

/-- `permUpdates` is the iterate of Update with the same message words. -/
theorem permUpdates_eq_iterate (m0 m1 : Word) (n : Nat) (s : Perm) :
    permUpdates m0 m1 n s = (fun s => permUpdate s m0 m1)^[n] s := by
  induction n generalizing s with
  | zero => rfl
  | succ n ih => rw [permUpdates, ih, Function.iterate_succ_apply]

/-- Settles O10: Initialize repeats Update twelve times. -/
theorem initializeRunsTwelveUpdates : Obligations.InitializeRunsTwelveUpdates :=
  fun _ _ => permUpdates_eq_iterate c0 c1 initRounds _

/-- The bytes of a word written in hex digits, the first digits first (R11). -/
theorem bytesOf_wordHex (x : BitVec 128) :
    bytesOf (wordHex x) 16 = (List.range 16).map fun j => byteAt x (15 - j) :=
  bytesOf_wordOfFn _

/-- Settles O11: the bytes of both constants are read off their digits. -/
theorem roundConstantsAreTheListedBytes : Obligations.RoundConstantsAreTheListedBytes := by
  unfold Obligations.RoundConstantsAreTheListedBytes
  rw [c0, c1, bytesOf_wordHex, bytesOf_wordHex]
  decide

/-! ## O27, O28, O29, O30, O43: the permutation commands -/

/-- STATUS of a ready block that has started a computation: MODE, and PHASE = ABSORB (R86, R87). -/
theorem Regs.status_started {r : Regs} (hb : r.busy = false) (m : Mode) (k0 k1 : Word) :
    (r.started m k0 k1).status = m.code.setWidth 32 <<< 2 ||| 1 := by
  simp [Regs.status, hb, ErrCode.code, Phase.code]

/-- The registers of a ready block, zeroized, are those of reset (R89). -/
theorem Regs.zeroized_ready {r : Regs} (hb : r.busy = false) : r.zeroized = Regs.reset := by
  rw [Regs.zeroized, hb]
  rfl

/-- The registers a command leaves that the lock does not hold back are its effect's. -/
theorem exec_afresh_regs {i : Instr} (ha : startsAfresh i = true) {s t : State} (h : exec i s = .next t) :
    t.regs = effectOf i s.din s.regs := by
  rw [exec_afresh ha] at h
  cases h
  rfl

/-- Settles O27: the effect of INIT.KEY is a start with the halves of din, both zero where din is. -/
theorem initKeyStartsKeyedComputation : Obligations.InitKeyStartsKeyedComputation := by
  refine ⟨by decide, fun s => ⟨exec_afresh rfl s, fun hb t h => ?_, fun hdin t u ht hu => ?_⟩⟩
  · rw [exec_afresh_regs rfl h]
    exact Regs.status_started hb _ _ _
  · obtain ⟨hfirst, hsecond⟩ : firstHalf s.din = 0 ∧ secondHalf s.din = 0 := by
      rw [hdin]
      decide
    have hkey : t.regs = s.regs.started .keyed (firstHalf s.din) (secondHalf s.din) := exec_afresh_regs rfl ht
    have hhash : u.regs = s.regs.started .keyless 0 0 := exec_afresh_regs rfl hu
    rw [hkey, hhash, hfirst, hsecond]
    rfl

/-- Settles O28: the effect of INIT.HASH is a start with the zero key. -/
theorem initHashStartsKeylessComputation : Obligations.InitHashStartsKeylessComputation := by
  refine ⟨by decide, fun s => ⟨exec_afresh rfl s, fun hb t h => ?_⟩⟩
  rw [exec_afresh_regs rfl h]
  exact Regs.status_started hb _ _ _

/-- Settles O29: the effect of CLEAR zeroizes, which leaves the reset registers. -/
theorem clearZeroizesEveryRegister : Obligations.ClearZeroizesEveryRegister := by
  refine ⟨by decide, fun s => ⟨exec_afresh rfl s, fun hb t h => ?_⟩⟩
  have hregs : t.regs = Regs.reset := (exec_afresh_regs rfl h).trans (Regs.zeroized_ready hb)
  exact ⟨by rw [hregs]; rfl, hregs⟩

/-- Settles O30: UPDATE is guarded by the lock and the check of PHASE. -/
theorem updateAppliesOneRawUpdate : Obligations.UpdateAppliesOneRawUpdate := by
  refine ⟨by decide, fun s => ?_⟩
  rw [exec_guarded rfl]
  refine ⟨fun herr hphase => ?_, fun herr => ?_, fun herr hphase => ?_⟩
  · have hpass : ∀ c ∈ checksOf .update s.regs, c.passes = true := by simp [checksOf, checkPhase, hphase]
    rw [guarded_passes herr hpass]
    rfl
  · rw [guarded_locked herr]
  · have hfail : firstFailure (checksOf .update s.regs) = some .phase := by
      simp [checksOf, checkPhase, firstFailure, hphase]
    rw [guarded_fails herr hfail]

/-- No command writes BUSY, rejected or executed (R33). -/
theorem exec_busy {i : Instr} {s t : State} (h : exec i s = .next t) : t.regs.busy = s.regs.busy := by
  rcases exec_rejected_or_executed h with ⟨code, -, rfl⟩ | ⟨-, rfl⟩
  · rfl
  · exact effectOf_busy i s.din s.regs

/-- Settles O43: no command at all writes these. -/
theorem initAndClearFrame : Obligations.InitAndClearFrame := by
  rintro s t (h | h | h) <;> exact ⟨exec_sameOutside h, exec_busy h⟩

end Sys2Proof.Machine

namespace Sys2Proof.Machine

/-! ## O13, O14: the carriers and the length block, byte by byte (R100 to R103) -/

/-- Zero bytes after a sequence read like the lanes past its end. -/
theorem getD_append_zeroBytes (c : List Byte) (n j : Nat) : (c ++ zeroBytes n).getD j 0 = c.getD j 0 := by
  rcases Nat.lt_or_ge j c.length with hin | hpast
  · exact List.getD_append _ _ _ _ hin
  · rw [List.getD_append_right _ _ _ _ hpast, List.getD_eq_default _ _ hpast]
    exact List.getElem?_getD_replicate_default_eq ..

/-- The chunk of N bytes has the bytes of din, and zeros past its end (R65). -/
theorem getD_chunkOf (din : Block) (n j : Nat) :
    (chunkOf din n).getD j 0 = if j < n then byteAt din j else 0 := by
  split <;> simp [chunkOf, bytesOf, *]

/-- Byte j of the keyed carrier is byte j of the chunk (R101). -/
theorem byteAt_keyedCarrier (c : List Byte) {j : Nat} (hj : j < 32) :
    byteAt (keyedCarrier c) j = c.getD j 0 := by
  rw [keyedCarrier, byteAt_ofBytes (by omega), getD_append_zeroBytes]

/-- The first half of the keyless carrier has the first eight bytes of the chunk, and the second the others (R102). -/
theorem byteAt_keylessCarrier (c : List Byte) {j : Nat} (hj : j < 32) :
    byteAt (keylessCarrier c) j = if j < 16 then (c.take 8).getD j 0 else c.getD (j - 8) 0 := by
  have hlen : (halfCarrier (c.take 8)).length = 16 := by
    simp [halfCarrier, zeroBytes]
  rw [keylessCarrier, byteAt_ofBytes (by omega)]
  split
  case isTrue hfirst =>
    rw [List.getD_append _ _ _ _ (by omega), halfCarrier, getD_append_zeroBytes]
  case isFalse hsecond =>
    have hindex : 8 + (j - 16) = j - 8 := by omega
    rw [List.getD_append_right _ _ _ _ (by omega), hlen, halfCarrier, getD_append_zeroBytes,
      List.getD_eq_getElem?_getD, List.getElem?_drop, hindex, List.getD_eq_getElem?_getD]

/-- Settles O13: a lane of a carrier holds the chunk byte its layout puts there. -/
theorem carriersPlaceTheChunk : Obligations.CarriersPlaceTheChunk := by
  refine ⟨rfl, rfl, fun din n j _ _ hj => ?_, fun din n j _ hn hj => ?_⟩
  · rw [carrier, byteAt_keyedCarrier _ hj, getD_chunkOf]
  · have htake : ((chunkOf din n).take 8).getD j 0 = if j < 8 then (chunkOf din n).getD j 0 else 0 := by
      simp only [List.getD_eq_getElem?_getD, List.getElem?_take]
      split <;> rfl
    rw [carrier, byteAt_keylessCarrier _ hj, htake, getD_chunkOf, getD_chunkOf]
    have hlanes : j < 8 ∨ (8 ≤ j ∧ j < 16) ∨ (16 ≤ j ∧ j < 24) ∨ 24 ≤ j := by omega
    rcases hlanes with h | h | h | h <;> simp (disch := omega) only [if_pos, if_neg]

/-- Byte j of a counter is its j-th digit to the base 256 (R44). -/
theorem byteAt_counter (v : Counter) (j : Nat) : byteAt v j = BitVec.ofNat 8 (v.toNat / 256 ^ j) := by
  have hbase : 2 ^ (8 * j) = 256 ^ j := Nat.pow_mul 2 8 j
  refine BitVec.eq_of_toNat_eq ?_
  rw [byteAt, BitVec.extractLsb'_toNat, BitVec.toNat_ofNat, Nat.shiftRight_eq_div_pow, hbase]

theorem getD_le64 (v : Counter) {j : Nat} (hj : j < 8) : (le64 v).getD j 0 = byteAt v j := by
  simp [le64, hj]

/-- A byte of the length block: the length field and zeros, and the tag xored to byte 31 (R103). -/
theorem byteAt_lengthBlock (len : Counter) (tag : Byte) {j : Nat} (hj : j < 32) :
    byteAt (lengthBlock len tag) j =
      if j = 31 then (le64 (len * 8)).getD j 0 ^^^ tag else (le64 (len * 8)).getD j 0 := by
  have hlen : j < (le64 (len * 8) ++ zeroBytes 24).length := by simpa [le64, zeroBytes] using hj
  rw [lengthBlock, byteAt_ofBytes (by omega), ← getD_append_zeroBytes (le64 (len * 8)) 24,
    List.getD_eq_getElem?_getD, List.getElem?_modify, List.getD_eq_getElem?_getD, List.getElem?_eq_getElem hlen]
  by_cases htag : j = 31
  · simp [htag]
  · simp [htag, Ne.symm htag]

/-- Settles O14: the length field is eight bytes of the number, which wraps, and past it only the tag is set. -/
theorem lengthBlockByteByByte : Obligations.LengthBlockByteByByte := by
  refine ⟨rfl, rfl, fun len tag j hj => ?_⟩
  rw [byteAt_lengthBlock len tag hj]
  rcases Nat.lt_or_ge j 8 with hfield | hpast
  · have hbytes : (len * 8).toNat = len.toNat * 8 % 2 ^ 64 := BitVec.toNat_mul len 8
    rw [if_neg (by omega), if_pos hfield, getD_le64 _ hfield, byteAt_counter, hbytes]
  · have hzero : (le64 (len * 8)).getD j 0 = 0 := List.getD_eq_default _ _ (by simpa [le64] using hpast)
    rw [if_neg (by omega : ¬ j < 8), hzero]
    exact if_congr Iff.rfl (BitVec.zero_xor) rfl

/-! ## O31, O32, O33: the absorber commands -/

/-- A counter's sum is the number's, modulo 2^64 (R10, R106). -/
theorem ofNat_toNat_add_mod (v : Counter) (n : Nat) :
    BitVec.ofNat 64 ((v.toNat + n) % 2 ^ 64) = v + BitVec.ofNat 64 n := by
  refine BitVec.eq_of_toNat_eq ?_
  rw [BitVec.toNat_ofNat, BitVec.toNat_add, BitVec.toNat_ofNat]
  omega

section AbsorbChecks

variable {n : Nat} {r : Regs}

/-- ABSORB's checks pass in phase ABSORB, for a legal length and after no short chunk (R107). -/
theorem absorb_checks_pass (hp : r.phase = .absorb) (hmin : 1 ≤ n) (hmax : n ≤ r.mode.rate)
    (hw : r.partialSeg = false) : firstFailure (checksOf (.absorb n) r) = none := by
  simp [checksOf, firstFailure, checkPhase, checkLength, checkWhole, *]

/-- The first check of ABSORB is that of PHASE. -/
theorem absorb_fails_phase (hp : r.phase ≠ .absorb) :
    firstFailure (checksOf (.absorb n) r) = some .phase := by
  simp [checksOf, firstFailure, checkPhase, hp]

/-- The second check of ABSORB is that of the length. -/
theorem absorb_fails_length (hp : r.phase = .absorb) (hn : n = 0 ∨ r.mode.rate < n) :
    firstFailure (checksOf (.absorb n) r) = some .length := by
  have hillegal : ¬ (1 ≤ n ∧ n ≤ r.mode.rate) := by omega
  simp [checksOf, firstFailure, checkPhase, checkLength, hp, hillegal]

/-- The last check of ABSORB is that of PARTIAL. -/
theorem absorb_fails_partial (hp : r.phase = .absorb) (hmin : 1 ≤ n) (hmax : n ≤ r.mode.rate)
    (hw : r.partialSeg = true) : firstFailure (checksOf (.absorb n) r) = some .partialChunk := by
  simp [checksOf, firstFailure, checkPhase, checkLength, checkWhole, *]

end AbsorbChecks

/-- Settles O31: ABSORB is executed if its three checks pass, and rejected by the first that fails. -/
theorem absorbFeedsOneChunk : Obligations.AbsorbFeedsOneChunk := by
  refine ⟨fun n hn => ?_, fun n s => ?_⟩
  · rw [← encode_absorb (Nat.le_of_lt_succ hn)]
    exact decode_encode (decide_eq_true hn)
  · rw [exec_guarded rfl]
    refine ⟨fun he hp hmin hmax hw => ?_, fun he => ?_, fun he hp => ?_, fun he hp hn => ?_,
      fun he hp hmin hmax hw => ?_⟩
    · rw [guarded_passes he ((firstFailure_none_iff _).1 (absorb_checks_pass hp hmin hmax hw)),
        ofNat_toNat_add_mod]
      rfl
    · rw [guarded_locked he]
    · rw [guarded_fails he (absorb_fails_phase hp)]
    · rw [guarded_fails he (absorb_fails_length hp hn)]
    · rw [guarded_fails he (absorb_fails_partial hp hmin hmax hw)]

/-- Both ENDs are held back by the lock. -/
theorem startsAfresh_endOf (d : Domain) : startsAfresh (endOf d) = false := by
  cases d <;> rfl

/-- Both ENDs check PHASE and nothing else: an empty segment can be closed (R108, R109). -/
theorem checksOf_endOf (d : Domain) (r : Regs) : checksOf (endOf d) r = [checkPhase r .absorb] := by
  cases d <;> rfl

/-- The effect of an END: the length block of its domain, one more segment there, and the segment closed. -/
theorem effectOf_endOf (d : Domain) (din : Block) (r : Regs) :
    effectOf (endOf d) din r = { r with
      perm := feedBlock r.perm (lengthBlock r.len d.tag)
      msgSeg := if d = .message then r.msgSeg + 1 else r.msgSeg
      ctxSeg := if d = .context then r.ctxSeg + 1 else r.ctxSeg
      len := 0
      segOpen := false
      partialSeg := false
      rej := false } := by
  cases d <;> rfl

section EndCommands

variable {d : Domain} {s : State}

/-- An END is executed in phase ABSORB. -/
theorem exec_endOf_executed (he : s.regs.err = .none) (hp : s.regs.phase = .absorb) :
    exec (endOf d) s = .next { s with regs := effectOf (endOf d) s.din s.regs } := by
  have hpass : ∀ c ∈ checksOf (endOf d) s.regs, c.passes = true := by simp [checksOf_endOf, checkPhase, hp]
  rw [exec_guarded (startsAfresh_endOf d), guarded_passes he hpass]

/-- An END is rejected silently while an error is locked in (R153). -/
theorem exec_endOf_locked (he : s.regs.err ≠ .none) :
    exec (endOf d) s = .next { s with regs := { s.regs with rej := true } } := by
  rw [exec_guarded (startsAfresh_endOf d), guarded_locked he]

/-- An END is rejected with PHASE in another phase. -/
theorem exec_endOf_wrong_phase (he : s.regs.err = .none) (hp : s.regs.phase ≠ .absorb) :
    exec (endOf d) s = .next { s with regs := { s.regs with err := .phase, rej := true } } := by
  have hfail : firstFailure (checksOf (endOf d) s.regs) = some .phase := by
    simp [checksOf_endOf, checkPhase, firstFailure, hp]
  rw [exec_guarded (startsAfresh_endOf d), guarded_fails he hfail]

end EndCommands

/-- Settles O32: END.MSG is the END of the message domain. -/
theorem endMsgClosesMessageSegment : Obligations.EndMsgClosesMessageSegment := by
  refine ⟨by decide, fun s => ⟨fun he hp => ?_, exec_endOf_locked (d := .message),
    exec_endOf_wrong_phase (d := .message)⟩⟩
  rw [ofNat_toNat_add_mod]
  exact exec_endOf_executed (d := .message) he hp

/-- Settles O33: END.CTX is the END of the context domain. -/
theorem endCtxClosesContextSegment : Obligations.EndCtxClosesContextSegment := by
  refine ⟨by decide, fun s => ⟨fun he hp => ?_, exec_endOf_locked (d := .context),
    exec_endOf_wrong_phase (d := .context)⟩⟩
  rw [ofNat_toNat_add_mod]
  exact exec_endOf_executed (d := .context) he hp

/-! ## O54: the chunks of a segment (R69, R110) -/

/-- Chunks a segment can be absorbed in: each of 1 to `rate` bytes, and only the last shorter than the rate (R69). -/
def LegalChunks (rate : Nat) : List (List Byte) → Prop
  | [] => True
  | c :: cs => 1 ≤ c.length ∧ c.length ≤ rate ∧ (cs ≠ [] → c.length = rate) ∧ LegalChunks rate cs

theorem LegalChunks.length_bounds {rate : Nat} {cs : List (List Byte)} (h : LegalChunks rate cs) :
    ∀ c ∈ cs, 1 ≤ c.length ∧ c.length ≤ rate := by
  induction cs with
  | nil => simp
  | cons c cs ih =>
    obtain ⟨hmin, hmax, -, hrest⟩ := h
    exact List.forall_mem_cons.2 ⟨⟨hmin, hmax⟩, ih hrest⟩

/-- Whole chunks can stand before any legal ones. -/
theorem LegalChunks.append_whole {rate : Nat} (hrate : 1 ≤ rate) {whole cs : List (List Byte)}
    (hwhole : ∀ c ∈ whole, c.length = rate) (h : LegalChunks rate cs) : LegalChunks rate (whole ++ cs) := by
  induction whole with
  | nil => exact h
  | cons c whole ih =>
    obtain ⟨hc, hrest⟩ := List.forall_mem_cons.1 hwhole
    exact ⟨hc.symm ▸ hrate, hc.le, fun _ => hc, ih hrest⟩

theorem Mode.rate_bounds (m : Mode) : 1 ≤ m.rate ∧ m.rate ≤ 32 := by
  cases m <;> decide

theorem length_slice (x : List Byte) (a b : Nat) : (slice x a b).length = min (b - a) (x.length - a) := by
  rw [slice, List.length_take, List.length_drop]

/-- The full blocks of AbsorbDomain (R104). -/
def wholeChunks (rate : Nat) (x : List Byte) : List (List Byte) :=
  (List.range (x.length / rate)).map fun j => slice x (j * rate) ((j + 1) * rate)

/-- The trailing partial block of AbsorbDomain, if there is one (R104). -/
def shortChunk (rate : Nat) (x : List Byte) : List (List Byte) :=
  if x.length % rate ≠ 0 then [slice x (x.length - x.length % rate) x.length] else []

theorem ceilDiv_eq {a b : Nat} (hb : 1 ≤ b) : ceilDiv a b = a / b + if a % b ≠ 0 then 1 else 0 := by
  have hdiv := Nat.div_add_mod a b
  have hmod := Nat.mod_lt a hb
  rw [ceilDiv]
  split
  case isTrue h =>
    have hsum : a + b - 1 = b * (a / b + 1) + (a % b - 1) := by
      rw [Nat.mul_add]
      omega
    rw [hsum, Nat.mul_add_div hb, Nat.div_eq_of_lt (a := a % b - 1) (by omega), Nat.add_zero]
  case isFalse h =>
    have hsum : a + b - 1 = b * (a / b) + (b - 1) := by omega
    rw [hsum, Nat.mul_add_div hb, Nat.div_eq_of_lt (a := b - 1) (by omega)]

/-- The host's chunks (R69) are the full blocks and the trailing block of AbsorbDomain (R104). -/
theorem chunks_eq_whole_append_short {rate : Nat} (hrate : 1 ≤ rate) (x : List Byte) :
    chunks rate x = wholeChunks rate x ++ shortChunk rate x := by
  have hdiv := Nat.div_add_mod' x.length rate
  have hwhole : (List.range (x.length / rate)).map
      (fun j => slice x (j * rate) (min ((j + 1) * rate) x.length)) = wholeChunks rate x := by
    refine List.map_congr_left fun j hj => ?_
    have hend : (j + 1) * rate ≤ x.length / rate * rate := Nat.mul_le_mul_right rate (List.mem_range.1 hj)
    rw [Nat.min_eq_left (by omega)]
  rw [chunks, ceilDiv_eq hrate, shortChunk]
  split
  case isTrue h =>
    have hmod := Nat.mod_lt x.length hrate
    have hstart : x.length / rate * rate = x.length - x.length % rate := by omega
    have hend : min ((x.length / rate + 1) * rate) x.length = x.length := by
      rw [Nat.add_mul]
      omega
    rw [List.range_succ, List.map_append, hwhole, List.map_singleton, hend, hstart]
  case isFalse h => rw [Nat.add_zero, hwhole, List.append_nil]

theorem length_of_mem_wholeChunks {rate : Nat} {x c : List Byte} (h : c ∈ wholeChunks rate x) : c.length = rate := by
  obtain ⟨j, hj, rfl⟩ := List.mem_map.1 h
  have hdiv := Nat.div_mul_le_self x.length rate
  have hend : (j + 1) * rate ≤ x.length / rate * rate := Nat.mul_le_mul_right rate (List.mem_range.1 hj)
  rw [Nat.add_mul] at hend
  rw [length_slice, Nat.add_mul]
  omega

theorem legalChunks_shortChunk {rate : Nat} (hrate : 1 ≤ rate) (x : List Byte) :
    LegalChunks rate (shortChunk rate x) := by
  have hmod := Nat.mod_lt x.length hrate
  have hle := Nat.mod_le x.length rate
  unfold shortChunk
  split
  case isTrue h => exact ⟨by rw [length_slice]; omega, by rw [length_slice]; omega, by simp, trivial⟩
  case isFalse h => trivial

/-- The chunks of a segment can be absorbed (R69). -/
theorem legalChunks_chunks (m : Mode) (x : List Byte) : LegalChunks m.rate (chunks m.rate x) := by
  obtain ⟨hrate, -⟩ := m.rate_bounds
  rw [chunks_eq_whole_append_short hrate]
  exact (legalChunks_shortChunk hrate x).append_whole hrate fun c => length_of_mem_wholeChunks

/-- The chunks have all the bytes of the segment. -/
theorem sum_length_chunks {rate : Nat} (hrate : 1 ≤ rate) (x : List Byte) :
    ((chunks rate x).map List.length).sum = x.length := by
  have hwhole : (wholeChunks rate x).map List.length = List.replicate (x.length / rate) rate := by
    refine List.eq_replicate_iff.2 ⟨by simp [wholeChunks], fun n hn => ?_⟩
    obtain ⟨c, hc, rfl⟩ := List.mem_map.1 hn
    exact length_of_mem_wholeChunks hc
  have hshort : ((shortChunk rate x).map List.length).sum = x.length % rate := by
    have hle := Nat.mod_le x.length rate
    unfold shortChunk
    split
    case isTrue h =>
      rw [List.map_singleton, List.sum_singleton, length_slice]
      omega
    case isFalse h => simpa using (not_not.1 h).symm
  rw [chunks_eq_whole_append_short hrate, List.map_append, List.sum_append, hwhole, hshort, List.sum_replicate,
    smul_eq_mul, Nat.div_add_mod']

/-- The word of an ABSORB of a chunk no longer than the rate decodes to it. -/
theorem decode_absorbOffer {m : Mode} {c : List Byte} (hc : c.length ≤ m.rate) :
    decode (absorbOffer c).cmd = .ok (.absorb c.length) := by
  have hrate := m.rate_bounds.2
  exact decode_encode (decide_eq_true (by omega))

theorem wellFormed_endOf (d : Domain) : (endOf d).wellFormed = true := by
  cases d <;> rfl

theorem decode_plainOffer_endOf (d : Domain) : decode (plainOffer (endOf d)).cmd = .ok (endOf d) :=
  decode_encode (wellFormed_endOf d)

/-- Each ABSORB of a segment takes a legal chunk. -/
theorem decode_of_mem_absorbs {m : Mode} {x : List Byte} {o : Offer} (h : o ∈ (chunks m.rate x).map absorbOffer) :
    ∃ n, 1 ≤ n ∧ n ≤ m.rate ∧ decode o.cmd = .ok (.absorb n) := by
  obtain ⟨c, hc, rfl⟩ := List.mem_map.1 h
  obtain ⟨hmin, hmax⟩ := (legalChunks_chunks m x).length_bounds c hc
  exact ⟨c.length, hmin, hmax, decode_absorbOffer hmax⟩

theorem length_absorbSeg (m : Mode) (d : Domain) (x : List Byte) :
    (absorbSeg m d x).length = ceilDiv x.length m.rate + 1 := by
  simp [absorbSeg, chunks]

/-- Every command of a segment runs one Update (R110, R186). -/
theorem updatesOfWord_of_mem_absorbSeg {m : Mode} {d : Domain} {x : List Byte} {o : Offer}
    (h : o ∈ absorbSeg m d x) : updatesOfWord o.cmd = 1 := by
  rcases List.mem_append.1 h with h | h
  · obtain ⟨n, -, -, hd⟩ := decode_of_mem_absorbs h
    simp [updatesOfWord, hd, updatesOf]
  · rw [List.mem_singleton.1 h, updatesOfWord, decode_plainOffer_endOf]
    cases d <;> rfl

/-- Settles O54: the chunks are ceil(L / r), the END comes after them, and each command runs one Update. -/
theorem segmentCommandCounts : Obligations.SegmentCommandCounts := by
  intro m d x
  have hupdates : (absorbSeg m d x).map (fun o => updatesOfWord o.cmd) =
      List.replicate (absorbSeg m d x).length 1 :=
    List.map_eq_replicate_iff.2 fun o => updatesOfWord_of_mem_absorbSeg
  refine ⟨length_absorbSeg m d x, fun o ho => ?_, ?_, ?_⟩
  · rw [absorbSeg, List.dropLast_concat] at ho
    exact decode_of_mem_absorbs ho
  · rw [absorbSeg, List.getLast?_concat]
    rfl
  · rw [hupdates, List.sum_replicate, smul_eq_mul, Nat.mul_one, length_absorbSeg]
    rfl

/-! ## O56: a segment computes AbsorbDomain (R104, R105) -/

/-- The words after a chunk is fed in the layout of the mode (R107). -/
def feedChunk (m : Mode) (p : Perm) (c : List Byte) : Perm := feedBlock p (carrier m c)

/-- The source absorbs the host's chunks, one after another (R104, R105). -/
theorem absorbData_eq_foldl (m : Mode) (x : List Byte) (p : Perm) :
    absorbData m x p = (chunks m.rate x).foldl (feedChunk m) p := by
  have hwhole : absorbFullBlocks m x p = (wholeChunks m.rate x).foldl (feedChunk m) p := by
    rw [wholeChunks, List.foldl_map]
    rfl
  rw [chunks_eq_whole_append_short m.rate_bounds.1, List.foldl_append, ← hwhole, absorbData, shortChunk]
  split <;> rfl

/-- ABSORB reads back the chunk the host put on din (R42, R68). -/
theorem chunkOf_ofBytes {c : List Byte} (hc : c.length ≤ 32) : chunkOf (ofBytes 256 c) c.length = c := by
  refine List.ext_getElem (by simp [chunkOf, bytesOf]) fun j _ hj => ?_
  have hbyte : byteAt (ofBytes 256 c) j = c.getD j 0 := byteAt_ofBytes (by omega) c
  simpa [chunkOf, bytesOf, hj] using hbyte

/-- A chunk of legal length that follows no short one is absorbed (R107). -/
theorem answer_absorbOffer {c : List Byte} {r : Regs} (he : r.err = .none) (hp : r.phase = .absorb)
    (hmin : 1 ≤ c.length) (hmax : c.length ≤ r.mode.rate) (hw : r.partialSeg = false) :
    answer (absorbOffer c) r = { r with
      perm := feedChunk r.mode r.perm c
      len := r.len + BitVec.ofNat 64 c.length
      segOpen := true
      partialSeg := decide (c.length < r.mode.rate)
      rej := false } := by
  have hchunk : chunkOf (absorbOffer c).din c.length = c :=
    chunkOf_ofBytes (Nat.le_trans hmax r.mode.rate_bounds.2)
  rw [answer_executed (decode_absorbOffer hmax) rfl he (absorb_checks_pass hp hmin hmax hw), effectOf, absorbEffect,
    hchunk]
  rfl

/-- The END of a segment is executed in phase ABSORB (R108, R109). -/
theorem answer_endOf {d : Domain} {r : Regs} (he : r.err = .none) (hp : r.phase = .absorb) :
    answer (plainOffer (endOf d)) r = effectOf (endOf d) 0 r := by
  have hpass : firstFailure (checksOf (endOf d) r) = none := by
    simp [checksOf_endOf, checkPhase, firstFailure, hp]
  exact answer_executed (decode_plainOffer_endOf d) (startsAfresh_endOf d) he hpass

/-- A reading shows REJ (R34). -/
theorem Regs.reading_rej (r : Regs) : r.reading.status.getLsbD 6 = r.rej := r.status_rej

/-- The commands of legal chunks and the END after them are executed: the chunks are fed in order and counted in LEN,
and the END then closes the segment. The chunks before the END leave traces in flags that it clears. -/
theorem answers_chunks_end (d : Domain) {cs : List (List Byte)} {r : Regs} (he : r.err = .none)
    (hp : r.phase = .absorb) (hcs : LegalChunks r.mode.rate cs) (hw : cs ≠ [] → r.partialSeg = false) :
    (answers (cs.map absorbOffer ++ [plainOffer (endOf d)]) r).1 =
      effectOf (endOf d) 0 { r with
        perm := cs.foldl (feedChunk r.mode) r.perm
        len := r.len + BitVec.ofNat 64 (cs.map List.length).sum } ∧
    ∀ q ∈ (answers (cs.map absorbOffer ++ [plainOffer (endOf d)]) r).2, q.status.getLsbD 6 = false := by
  induction cs generalizing r with
  | nil =>
    have hend : answer (plainOffer (endOf d)) r = effectOf (endOf d) 0 r := answer_endOf he hp
    have hrej : (effectOf (endOf d) 0 r).reading.status.getLsbD 6 = false :=
      (Regs.reading_rej _).trans (effectOf_rej _ _ _)
    simpa [answers, hend] using hrej
  | cons c cs ih =>
    obtain ⟨hmin, hmax, hwhole, hrest⟩ := hcs
    have hc := answer_absorbOffer he hp hmin hmax (hw (by simp))
    have hnext : cs ≠ [] → (answer (absorbOffer c) r).partialSeg = false := fun hne => by
      simp [hc, hwhole hne]
    obtain ⟨hregs, hreadings⟩ := ih (r := answer (absorbOffer c) r) (by rw [hc]; exact he) (by rw [hc]; exact hp)
      (by rw [hc]; exact hrest) hnext
    refine ⟨?_, List.forall_mem_cons.2 ⟨?_, hreadings⟩⟩
    · refine hregs.trans ?_
      simp only [hc, effectOf_endOf, List.foldl_cons, List.map_cons, List.sum_cons, BitVec.ofNat_add,
        BitVec.add_assoc]
    · rw [Regs.reading_rej, hc]

/-- Settles O56: the chunks of the segment are legal, and fed in the source's order; the invariant gives LEN = 0 and
PARTIAL = 0 before the first. -/
theorem absorbSegComputesAbsorbDomain : Obligations.AbsorbSegComputesAbsorbDomain := by
  refine ⟨fun d x s hinv hb hp hclosed he => ?_, fun n s he hp hw hmin hmax => ?_⟩
  · have hlen : s.regs.len = 0 := hinv.closed_empty hclosed
    have hw : s.regs.partialSeg = false := Bool.eq_false_iff.2 fun h => by simp [hinv.partial_open h] at hclosed
    obtain ⟨hregs, hreadings⟩ := answers_chunks_end d he hp (legalChunks_chunks s.regs.mode x) fun _ => hw
    obtain ⟨t, hrun, ht, -⟩ := runOffers_answers (absorbSeg s.regs.mode d x) hb
    refine ⟨t, _, hrun, hreadings, ht.trans (hregs.trans ?_)⟩
    rw [effectOf_endOf, ← absorbData_eq_foldl, sum_length_chunks s.regs.mode.rate_bounds.1, hlen]
    simp only [absorbDomain, zero_add]
  · rw [exec_guarded rfl, guarded_fails he (absorb_fails_partial hp hmin hmax hw)]
    exact ⟨_, rfl, rfl, rfl⟩

end Sys2Proof.Machine

namespace Sys2Proof.Machine

/-! ## O15: the counter block byte by byte (R120) -/

/-- A byte of a counter times eight, which wraps as the number does (R44, R106). -/
theorem byteAt_counter_times_eight (v : Counter) (j : Nat) :
    byteAt (v * 8) j = BitVec.ofNat 8 (v.toNat * 8 % 2 ^ 64 / 256 ^ j) := by
  have hwrap : (v * 8).toNat = v.toNat * 8 % 2 ^ 64 := BitVec.toNat_mul v 8
  rw [byteAt_counter, hwrap]

theorem length_le64 (v : Counter) : (le64 v).length = 8 := by
  simp [le64]

/-- Bytes [0:8) of the counter block are those of the context counter times eight. -/
theorem byteAt_counterBlock_ctx (ctx msg : Counter) {j : Nat} (hj : j < 8) :
    byteAt (counterBlock ctx msg) j = byteAt (ctx * 8) j := by
  rw [counterBlock, byteAt_ofBytes (by omega), List.getD_append _ _ _ _ (by rwa [length_le64]), getD_le64 _ hj]

/-- Bytes [8:16) of the counter block are those of the message counter times eight. -/
theorem byteAt_counterBlock_msg (ctx msg : Counter) {j : Nat} (hj : j < 8) :
    byteAt (counterBlock ctx msg) (8 + j) = byteAt (msg * 8) j := by
  rw [counterBlock, byteAt_ofBytes (by omega), List.getD_append_right _ _ _ _ (by rw [length_le64]; omega),
    length_le64, Nat.add_sub_cancel_left, getD_le64 _ hj]

/-- Settles O15: each half of the counter block is a counter times eight, whose bytes are the wrapped number's. -/
theorem tweakEncodesSegmentsTimesEight : Obligations.TweakEncodesSegmentsTimesEight := by
  refine fun s ctx msg => ⟨rfl, fun j hj => ?_, fun j hj => ?_⟩
  · rw [byteAt_counterBlock_ctx ctx msg hj, byteAt_counter_times_eight]
  · rw [byteAt_counterBlock_msg ctx msg hj, byteAt_counter_times_eight]

/-! ## O16: the extraction byte by byte (R123) -/

section Bytewise

variable {w : Nat} (x y : BitVec w) (i : Nat)

theorem byteAt_xor : byteAt (x ^^^ y) i = byteAt x i ^^^ byteAt y i :=
  BitVec.extractLsb'_xor

theorem byteAt_and : byteAt (x &&& y) i = byteAt x i &&& byteAt y i :=
  BitVec.extractLsb'_and

end Bytewise

/-- The bytes of `a` come first in `a || b` (R12). -/
theorem byteAt_joinHalves_first (a b : Word) {j : Nat} (hj : j < 16) : byteAt (joinHalves a b) j = byteAt a j := by
  rw [← byteAt_firstHalf _ hj, firstHalf_joinHalves]

/-- The bytes of `b` come after the sixteen of `a` in `a || b` (R12). -/
theorem byteAt_joinHalves_second (a b : Word) {j : Nat} (hj : j < 16) :
    byteAt (joinHalves a b) (16 + j) = byteAt b j := by
  rw [← byteAt_secondHalf _ hj, secondHalf_joinHalves]

/-- Settles O16: a byte of the extraction is one of a half's, and xor and and work byte by byte. -/
theorem extractionByteByByte : Obligations.ExtractionByteByByte := by
  refine fun s j hj => ⟨?_, ?_⟩
  · rw [extract, byteAt_joinHalves_first _ _ hj, extractFirst, byteAt_xor, byteAt_xor, byteAt_and]
  · rw [extract, byteAt_joinHalves_second _ _ hj, extractSecond, byteAt_xor, byteAt_xor, byteAt_and]

/-! ## O34, O35: FINAL and SQUEEZE -/

section GuardedCommands

variable {i : Instr} {s : State}

/-- A command behind the lock whose checks pass is executed (R151). -/
theorem exec_executed (ha : startsAfresh i = false) (he : s.regs.err = .none)
    (hf : firstFailure (checksOf i s.regs) = none) :
    exec i s = .next { s with regs := effectOf i s.din s.regs } := by
  rw [exec_guarded ha, guarded_passes he ((firstFailure_none_iff _).1 hf)]

/-- A command behind the lock is rejected silently while an error is locked in (R153). -/
theorem exec_locked (ha : startsAfresh i = false) (he : s.regs.err ≠ .none) :
    exec i s = .next { s with regs := { s.regs with rej := true } } := by
  rw [exec_guarded ha, guarded_locked he]

/-- A command behind the lock is rejected with the code of its first failing check (R151). -/
theorem exec_fails {code : ErrCode} (ha : startsAfresh i = false) (he : s.regs.err = .none)
    (hf : firstFailure (checksOf i s.regs) = some code) :
    exec i s = .next { s with regs := { s.regs with err := code, rej := true } } := by
  rw [exec_guarded ha, guarded_fails he hf]

end GuardedCommands

section FinalizerChecks

variable {r : Regs}

/-- FINAL's checks pass in phase ABSORB with no open segment (R121). -/
theorem final_checks_pass (hp : r.phase = .absorb) (hclosed : r.segOpen = false) :
    firstFailure (checksOf .final r) = none := by
  simp [checksOf, firstFailure, checkPhase, checkClosed, hp, hclosed]

/-- The first check of FINAL is that of PHASE. -/
theorem final_fails_phase (hp : r.phase ≠ .absorb) : firstFailure (checksOf .final r) = some .phase := by
  simp [checksOf, firstFailure, checkPhase, hp]

/-- The second check of FINAL is that of SEGOPEN. -/
theorem final_fails_open (hp : r.phase = .absorb) (hopen : r.segOpen = true) :
    firstFailure (checksOf .final r) = some .openSegment := by
  simp [checksOf, firstFailure, checkPhase, checkClosed, hp, hopen]

/-- SQUEEZE's only check passes in phase SQUEEZE (R122). -/
theorem squeeze_checks_pass (hp : r.phase = .squeeze) : firstFailure (checksOf .squeeze r) = none := by
  simp [checksOf, firstFailure, checkPhase, hp]

theorem squeeze_fails_phase (hp : r.phase ≠ .squeeze) : firstFailure (checksOf .squeeze r) = some .phase := by
  simp [checksOf, firstFailure, checkPhase, hp]

end FinalizerChecks

theorem decode_final : decode (plainOffer .final).cmd = .ok .final :=
  decode_encode (i := .final) rfl

theorem decode_squeeze : decode (plainOffer .squeeze).cmd = .ok .squeeze :=
  decode_encode (i := .squeeze) rfl

/-- The effect of FINAL: eleven Updates with the tweak in both words, the tweak in T, and phase SQUEEZE (R121). -/
theorem effectOf_final (din : Block) (r : Regs) :
    effectOf .final din r = { r with
      perm := diffuse (tweak r.perm r.ctxSeg r.msgSeg) r.perm
      t := tweak r.perm r.ctxSeg r.msgSeg
      phase := .squeeze
      rej := false } := rfl

/-- The diffusion rounds are eleven Updates (R121). -/
theorem diffuse_eq_iterate (t : Word) (p : Perm) : diffuse t p = (fun p => permUpdate p t t)^[11] p :=
  permUpdates_eq_iterate t t diffusionRounds p

/-- Settles O34: FINAL is executed if both its checks pass, and rejected by the first that fails. -/
theorem finalDiffusesWithTheTweak : Obligations.FinalDiffusesWithTheTweak := by
  refine ⟨decode_final, fun s => ⟨fun he hp hclosed => ?_, exec_locked rfl,
    fun he hp => exec_fails rfl he (final_fails_phase hp),
    fun he hp hopen => exec_fails rfl he (final_fails_open hp hopen)⟩⟩
  rw [exec_executed rfl he (final_checks_pass hp hclosed), effectOf_final, diffuse_eq_iterate, tweak]

/-- Settles O35: SQUEEZE is executed if its check passes, and its effect is this one by definition. -/
theorem squeezeUpdatesThenExtracts : Obligations.SqueezeUpdatesThenExtracts :=
  ⟨decode_squeeze, fun _ => ⟨fun he hp => exec_executed rfl he (squeeze_checks_pass hp), exec_locked rfl,
    fun he hp => exec_fails rfl he (squeeze_fails_phase hp)⟩⟩

/-! ## O55: the Updates of the finalizer (R127) -/

theorem length_squeezeN (outLen : Nat) : (squeezeN outLen).length = ceilDiv outLen 32 :=
  List.length_replicate

/-- Settles O55: FINAL runs eleven Updates, and each of the ceil(L / 32) SQUEEZEs one. -/
theorem finalizerUpdateCounts : Obligations.FinalizerUpdateCounts := by
  refine fun outLen => ⟨length_squeezeN outLen, ?_⟩
  have hfinal : updatesOfWord (plainOffer .final).cmd = 11 := by simp [updatesOfWord, decode_final, updatesOf]
  have hsqueeze : updatesOfWord (plainOffer .squeeze).cmd = 1 := by simp [updatesOfWord, decode_squeeze, updatesOf]
  rw [List.map_cons, List.sum_cons, squeezeN, List.map_replicate, List.sum_replicate, hfinal, hsqueeze, smul_eq_mul,
    Nat.mul_one]
  rfl

/-! ## O59: FINAL and SQUEEZEN compute ComputeFinalOutput (R126) -/

section FinalizerAnswers

variable {r : Regs}

/-- FINAL is executed in phase ABSORB with no open segment (R121). -/
theorem answer_final (he : r.err = .none) (hp : r.phase = .absorb) (hclosed : r.segOpen = false) :
    answer (plainOffer .final) r = effectOf .final 0 r :=
  answer_executed decode_final rfl he (final_checks_pass hp hclosed)

/-- SQUEEZE is executed in phase SQUEEZE (R122). -/
theorem answer_squeeze (he : r.err = .none) (hp : r.phase = .squeeze) :
    answer (plainOffer .squeeze) r = squeezeEffect r :=
  answer_executed decode_squeeze rfl he (squeeze_checks_pass hp)

end FinalizerAnswers

/-- All 32 bytes of each reading of dout, one reading after another. -/
def doutBytes (rs : List Reading) : List Byte := rs.flatMap fun q => bytesOf q.dout 32

/-- From phase SQUEEZE every SQUEEZE of a run is executed, the phase stays, and the readings show the squeeze rounds of
the source, one after another. -/
theorem answers_squeezes (n : Nat) {r : Regs} (he : r.err = .none) (hp : r.phase = .squeeze) :
    ∃ r' qs, answers (List.replicate n (plainOffer .squeeze)) r = (r', qs) ∧ r'.phase = .squeeze ∧ r'.err = .none ∧
      qs.length = n ∧ (∀ q ∈ qs, q.status.getLsbD 6 = false) ∧ doutBytes qs = squeezeStream r.t n r.perm := by
  induction n generalizing r with
  | zero => exact ⟨r, [], rfl, hp, he, rfl, nofun, rfl⟩
  | succ n ih =>
    obtain ⟨r', qs, hrest, hphase, herr, hlen, hrejs, hbytes⟩ := ih (r := squeezeEffect r) he hp
    refine ⟨r', (squeezeEffect r).reading :: qs, ?_, hphase, herr, congrArg (· + 1) hlen,
      List.forall_mem_cons.2 ⟨Regs.reading_rej _, hrejs⟩, ?_⟩
    · rw [List.replicate_succ, answers, answer_squeeze he hp, hrest]
    · rw [doutBytes, List.flatMap_cons, ← doutBytes, hbytes]
      rfl

theorem length_bytesOf {w : Nat} (x : BitVec w) (n : Nat) : (bytesOf x n).length = n := by
  simp [bytesOf]

theorem bytesOf_min {w : Nat} (x : BitVec w) (m n : Nat) : bytesOf x (min m n) = (bytesOf x m).take n := by
  rw [bytesOf, bytesOf, ← List.map_take, List.take_range, Nat.min_comm]

/-- What the host keeps is the bytes of the readings, truncated once for all (R70, R124). -/
theorem keptBytes_eq_take (outLen : Nat) (rs : List Reading) : keptBytes outLen rs = (doutBytes rs).take outLen := by
  induction rs generalizing outLen with
  | nil => exact List.take_nil.symm
  | cons q rs ih =>
    rw [keptBytes, ih, bytesOf_min, doutBytes, doutBytes, List.flatMap_cons, List.take_append, length_bytesOf]

/-- The host keeps the readings after the SQUEEZEs of a run that ends in them (R135, R136). -/
theorem keptOutput_append {outLen : Nat} {qs : List Reading} (rs : List Reading)
    (hqs : qs.length = ceilDiv outLen 32) : keptOutput outLen (rs ++ qs) = (doutBytes qs).take outLen := by
  rw [keptOutput, List.length_append, hqs, Nat.add_sub_cancel, List.drop_left, keptBytes_eq_take]

/-- Settles O59: FINAL leaves the diffused words and the tweak in T, and from there the SQUEEZEs give the source's
rounds, of which the host and the source keep the same bytes. -/
theorem finalAndSqueezesComputeFinalOutput : Obligations.FinalAndSqueezesComputeFinalOutput := by
  intro outLen s hb he hp hclosed
  obtain ⟨r', qs, hsqueezes, hphase, herr, hlen, hrejs, hbytes⟩ :=
    answers_squeezes (ceilDiv outLen 32) (r := effectOf .final 0 s.regs) he rfl
  have hanswers : answers (plainOffer .final :: squeezeN outLen) s.regs =
      (r', (effectOf .final 0 s.regs).reading :: qs) := by
    rw [answers, answer_final he hp hclosed, squeezeN, hsqueezes]
  obtain ⟨t, hrun, hregs, -⟩ := runOffers_answers (plainOffer .final :: squeezeN outLen) hb
  rw [hanswers] at hrun hregs
  refine ⟨t, _, hrun, List.forall_mem_cons.2 ⟨Regs.reading_rej _, hrejs⟩, by rw [hregs, hphase],
    by rw [hregs, herr], ?_⟩
  calc keptOutput outLen ((effectOf .final 0 s.regs).reading :: qs)
      = (doutBytes qs).take outLen := keptOutput_append [_] hlen
    _ = computeFinalOutput s.regs.perm s.regs.ctxSeg s.regs.msgSeg outLen := congrArg (List.take outLen) hbytes

/-! ## O58: prefixes of the output (R125) -/

/-- More squeeze rounds only add bytes at the end. -/
theorem squeezeStream_prefix (t : Word) {m n : Nat} (h : m ≤ n) (p : Perm) :
    squeezeStream t m p <+: squeezeStream t n p := by
  induction m generalizing n p with
  | zero => exact List.nil_prefix
  | succ m ih =>
    cases n with
    | zero => exact absurd h (Nat.not_succ_le_zero m)
    | succ n => exact (List.prefix_append_right_inj _).2 (ih (Nat.le_of_succ_le_succ h) _)

theorem length_squeezeStream (t : Word) (n : Nat) (p : Perm) : (squeezeStream t n p).length = 32 * n := by
  induction n generalizing p with
  | zero => rfl
  | succ n ih =>
    rw [squeezeStream, List.length_append, length_bytesOf, ih]
    omega

/-- ComputeFinalOutput gives as many bytes as are asked for: ceil(L / 32) rounds are enough. -/
theorem length_computeFinalOutput (p : Perm) (ctx msg : Counter) (outLen : Nat) :
    (computeFinalOutput p ctx msg outLen).length = outLen := by
  have henough : outLen ≤ 32 * ceilDiv outLen 32 := by
    rw [ceilDiv]
    omega
  rw [computeFinalOutput, List.length_take, length_squeezeStream, Nat.min_eq_left henough]

theorem ceilDiv_mono {a a' : Nat} (b : Nat) (h : a ≤ a') : ceilDiv a b ≤ ceilDiv a' b :=
  Nat.div_le_div_right (Nat.sub_le_sub_right (Nat.add_le_add_right h b) 1)

/-- A shorter output takes fewer bytes, from a stream that the longer one continues (R125). -/
theorem computeFinalOutput_prefix (p : Perm) (ctx msg : Counter) {outLen longer : Nat} (h : outLen ≤ longer) :
    computeFinalOutput p ctx msg outLen <+: computeFinalOutput p ctx msg longer :=
  ((squeezeStream_prefix _ (ceilDiv_mono 32 h) _).take outLen).trans (List.take_prefix_take_left h)

/-- Settles O58: both parts are about ComputeFinalOutput, which is what the host keeps of either run. -/
theorem shorterOutputIsAPrefix : Obligations.ShorterOutputIsAPrefix := by
  intro outLen longer h
  refine ⟨fun p ctx msg => ⟨length_computeFinalOutput p ctx msg outLen, computeFinalOutput_prefix p ctx msg h⟩,
    fun s hb he hp hclosed => ?_⟩
  obtain ⟨t, rs, hrun, -, -, -, hkept⟩ := finalAndSqueezesComputeFinalOutput outLen s hb he hp hclosed
  obtain ⟨t', rs', hrun', -, -, -, hkept'⟩ := finalAndSqueezesComputeFinalOutput longer s hb he hp hclosed
  refine ⟨t, t', rs, rs', hrun, hrun', ?_, ?_⟩
  · rw [hkept, length_computeFinalOutput]
  · rw [hkept, hkept']
    exact computeFinalOutput_prefix _ _ _ h

end Sys2Proof.Machine

namespace Sys2Proof.Machine

/-! ## O25: the block never stops (R143, R189) -/

/-- Every step answers a next state: no input of the host stops the block. -/
theorem step_next (s : State) : Continues s := by
  cases hb : s.regs.busy with
  | true => exact ⟨_, step_busy hb⟩
  | false =>
    rw [Continues, step_ready hb, runNextInput]
    cases s.inputs with
    | nil => exact ⟨_, rfl⟩
    | cons i rest =>
      cases i with
      | command first later =>
        obtain ⟨u, hu⟩ := runCaptured_next
          (s.accept (capturedOffer (Config.captureChoice s.captures) first later) rest)
        exact ⟨_, runCommand_eq hu⟩
      | withdrawn o | reset | commandCutByReset o => exact ⟨_, rfl⟩

/-- INIT.KEY, INIT.HASH and CLEAR leave ERR = 0 (R154). -/
theorem effectOf_afresh_err {i : Instr} (ha : startsAfresh i = true) (din : Block) (r : Regs) :
    (effectOf i din r).err = .none := by
  cases i with
  | initHash | initKey | clear => rfl
  | absorb _ | endMsg | endCtx | final | squeeze | update => cases ha

/-- The words of INIT.HASH, INIT.KEY and CLEAR decode to commands the lock does not hold back. -/
theorem decode_afresh_word {w : CmdWord} (hw : w = 0x00000001 ∨ w = 0x00000011 ∨ w = 0x00000007) :
    ∃ i, decode w = .ok i ∧ startsAfresh i = true := by
  rcases hw with rfl | rfl | rfl
  · exact ⟨.initHash, by decide, rfl⟩
  · exact ⟨.initKey, by decide, rfl⟩
  · exact ⟨.clear, by decide, rfl⟩

/-- Settles O25: every step answers a next state, and the answer to a command the lock does not hold back is its
effect, whatever phase or error the block is in. -/
theorem theBlockNeverStops : Obligations.TheBlockNeverStops := by
  refine ⟨step_next, fun s din w hb hw => ?_⟩
  obtain ⟨i, hd, ha⟩ := decode_afresh_word hw
  obtain ⟨t, ht, hregs, -⟩ := present_answer ⟨w, din⟩ hb
  rw [answer_afresh hd ha] at hregs
  exact ⟨t, ht, by rw [hregs, effectOf_afresh_err ha], by rw [hregs, effectOf_rej]⟩

/-! ## O39: no error means every command executed (R139) -/

/-- A presented command is rejected with an error, or decodes to a command that is executed. -/
theorem answer_rejected_or_executed (o : Offer) (r : Regs) :
    (∃ code, code ≠ .none ∧ answer o r = r.rejected code) ∨
    (∃ i, decode o.cmd = .ok i ∧ Executes i r ∧ answer o r = effectOf i o.din r) := by
  cases hd : decode o.cmd with
  | error why => exact .inl ⟨_, rejectCode_ne_none why, by simp only [answer, hd]⟩
  | ok i =>
    cases ha : startsAfresh i with
    | true => exact .inr ⟨i, rfl, .inl ha, answer_afresh hd ha⟩
    | false =>
      by_cases he : r.err = .none
      · cases hf : firstFailure (checksOf i r) with
        | some code =>
          exact .inl ⟨code, checksOf_failure hf, by rw [answer_fails hd ha he hf, Regs.rejected, if_pos he]⟩
        | none => exact .inr ⟨i, rfl, .inr ⟨he, (firstFailure_none_iff _).1 hf⟩, answer_executed hd ha he hf⟩
      · exact .inl ⟨r.err, he, by rw [answer_locked hd ha he, Regs.rejected, ite_self]⟩

/-- A rejection leaves an error, the first one or the one locked in (R152, R153). -/
theorem Regs.rejected_err_ne_none (r : Regs) {code : ErrCode} (hcode : code ≠ .none) :
    (r.rejected code).err ≠ .none := by
  by_cases he : r.err = .none <;> simp [he, hcode]

/-- If ERR is 0 after a command the lock holds back, the command was executed, and ERR was 0 before it. -/
theorem answer_of_err_none {o : Offer} {r : Regs} (ho : ∀ i, decode o.cmd = .ok i → startsAfresh i = false)
    (he : (answer o r).err = .none) : r.err = .none ∧ (answer o r).rej = false := by
  rcases answer_rejected_or_executed o r with ⟨code, hcode, hrejected⟩ | ⟨i, hd, hexec, heffect⟩
  · rw [hrejected] at he
    exact absurd he (r.rejected_err_ne_none hcode)
  · refine ⟨?_, by rw [heffect, effectOf_rej]⟩
    rcases hexec with hafresh | ⟨hnone, -⟩
    · simp [ho i hd] at hafresh
    · exact hnone

/-- A reading shows ERR (R34). -/
theorem Regs.reading_err (r : Regs) : r.reading.status.extractLsb' 8 4 = r.err.code := r.status_err

/-- A run of commands the lock holds back that ends with ERR = 0 began with ERR = 0, and each of its readings shows
REJ = 0 and ERR = 0: an error on the way would have stayed. -/
theorem answers_of_err_none {os : List Offer} {r : Regs}
    (hos : ∀ o ∈ os, ∀ i, decode o.cmd = .ok i → startsAfresh i = false) (he : (answers os r).1.err = .none) :
    r.err = .none ∧
      ∀ q ∈ (answers os r).2, q.status.getLsbD 6 = false ∧ q.status.extractLsb' 8 4 = 0 := by
  induction os generalizing r with
  | nil => exact ⟨he, nofun⟩
  | cons o os ih =>
    obtain ⟨ho, hrest⟩ := List.forall_mem_cons.1 hos
    obtain ⟨hnext, hreadings⟩ := ih hrest he
    obtain ⟨hbefore, hrej⟩ := answer_of_err_none ho hnext
    refine ⟨hbefore, List.forall_mem_cons.2 ⟨⟨(Regs.reading_rej _).trans hrej, ?_⟩, hreadings⟩⟩
    rw [Regs.reading_err, hnext]
    rfl

/-- Settles O39, by the same fact about the answers of the run. -/
theorem noErrorMeansEveryCommandExecuted : Obligations.NoErrorMeansEveryCommandExecuted := by
  intro os s t rs hb hos hrun he
  obtain ⟨u, hanswers, hregs, -⟩ := runOffers_answers os hb
  rw [hrun] at hanswers
  cases hanswers
  rw [hregs] at he
  exact (answers_of_err_none hos he).2

/-! ## O57: TAG and HASH compute ComputeTag and ComputeHash (R135, R136, R140) -/

/-! ### Runs with every command executed, one after another -/

/-- The run from `s` ends in `t` with the readings `rs`, and each of its commands is executed (REJ = 0, R32). -/
def ExecutedRun (os : List Offer) (s t : State) (rs : List Reading) : Prop :=
  runOffers os s = .next (t, rs) ∧ ∀ q ∈ rs, q.status.getLsbD 6 = false

theorem runOffers_append {os os' : List Offer} {s t u : State} {rs rs' : List Reading}
    (h : runOffers os s = .next (t, rs)) (h' : runOffers os' t = .next (u, rs')) :
    runOffers (os ++ os') s = .next (u, rs ++ rs') := by
  induction os generalizing s rs with
  | nil =>
    cases h
    exact h'
  | cons o os ih =>
    obtain ⟨v, hv⟩ := step_next { s with inputs := .command o [] :: s.inputs }
    have hpresent : present o s = .next v := hv
    rw [runOffers_cons os hpresent] at h
    rw [List.cons_append, runOffers_cons _ hpresent]
    cases hrest : runOffers os v with
    | next p =>
      obtain ⟨w, qs⟩ := p
      rw [hrest] at h
      cases h
      rw [ih hrest]
      rfl
    | fault c => cases c
    | refused c =>
      rw [hrest] at h
      cases h

theorem ExecutedRun.append {os os' : List Offer} {s t u : State} {rs rs' : List Reading}
    (h : ExecutedRun os s t rs) (h' : ExecutedRun os' t u rs') : ExecutedRun (os ++ os') s u (rs ++ rs') := by
  obtain ⟨hrun, hrejs⟩ := h
  obtain ⟨hrun', hrejs'⟩ := h'
  exact ⟨runOffers_append hrun hrun', List.forall_mem_append.2 ⟨hrejs, hrejs'⟩⟩

/-- The host reads once after each command (R143). -/
theorem length_answers (os : List Offer) (r : Regs) : (answers os r).2.length = os.length := by
  induction os generalizing r with
  | nil => rfl
  | cons o os ih => exact congrArg (· + 1) (ih _)

theorem length_readings {os : List Offer} {s t : State} {rs : List Reading} (hb : s.regs.busy = false)
    (h : runOffers os s = .next (t, rs)) : rs.length = os.length := by
  obtain ⟨u, hanswers, -, -⟩ := runOffers_answers os hb
  rw [h] at hanswers
  cases hanswers
  exact length_answers os s.regs

/-- Readings before those of the SQUEEZEs change nothing in what the host keeps (R135, R136). -/
theorem keptOutput_append_of_le {outLen : Nat} (rs : List Reading) {qs : List Reading}
    (h : ceilDiv outLen 32 ≤ qs.length) : keptOutput outLen (rs ++ qs) = keptOutput outLen qs := by
  rw [keptOutput, keptOutput, List.length_append, Nat.add_sub_assoc h, List.drop_length_add_append]

/-! ### The registers between the segments of a computation -/

/-- The registers of a ready block in a computation with no open segment, in which every command was executed: the
permutation words and the segment counters are all that the segments so far have left. -/
def betweenSegments (m : Mode) (p : Perm) (ctx msg : Counter) : Regs :=
  { Regs.reset with perm := p, ctxSeg := ctx, msgSeg := msg, mode := m, phase := .absorb }

/-- A started computation is between segments, and no segment has been closed (R86, R87). -/
theorem Regs.started_ready {r : Regs} (hb : r.busy = false) (m : Mode) (k0 k1 : Word) :
    r.started m k0 k1 = betweenSegments m (permInit k0 k1) 0 0 := by
  rw [Regs.started, Regs.zeroized_ready hb]
  rfl

theorem inv_betweenSegments (m : Mode) (p : Perm) (ctx msg : Counter) : (betweenSegments m p ctx msg).Inv :=
  (Regs.inv_started Regs.reset m 0 0).absorbing (r' := betweenSegments m p ctx msg) rfl rfl ⟨rfl, rfl⟩ nofun
    fun _ => rfl

/-- The words after the context segment: an empty context is not absorbed (R135, R136). -/
def absorbContext (m : Mode) (context : List Byte) (p : Perm) : Perm :=
  if context = [] then p else absorbDomain m .context context p

/-- The number of context segments of a computation. -/
def contextCount (context : List Byte) : Counter := if context = [] then 0 else 1

/-- ComputeTag and ComputeHash in one line: the context if there is one, the message, the output (R135, R136). -/
theorem computeOutput_eq (m : Mode) (k0 k1 : Word) (outLen : Nat) (context message : List Byte) :
    computeOutput m k0 k1 outLen context message =
      computeFinalOutput (absorbDomain m .message message (absorbContext m context (permInit k0 k1)))
        (contextCount context) 1 outLen := by
  unfold computeOutput absorbContext contextCount
  split <;> rfl

section Segments

variable {m : Mode} {p : Perm} {ctx msg : Counter} {s : State}

/-- A segment feeds AbsorbDomain of its bytes and counts itself in its domain (R104, R105). -/
theorem executedRun_absorbSeg (hs : s.regs = betweenSegments m p ctx msg) (d : Domain) (x : List Byte) :
    ∃ t rs, ExecutedRun (absorbSeg m d x) s t rs ∧
      t.regs = betweenSegments m (absorbDomain m d x p)
        (if d = .context then ctx + 1 else ctx) (if d = .message then msg + 1 else msg) := by
  obtain ⟨t, rs, hrun, hrejs, hregs⟩ := absorbSegComputesAbsorbDomain.1 d x s
    (by rw [hs]; exact inv_betweenSegments m p ctx msg) (by rw [hs]; rfl) (by rw [hs]; rfl) (by rw [hs]; rfl)
    (by rw [hs]; rfl)
  rw [hs] at hrun hregs
  exact ⟨t, rs, ⟨hrun, hrejs⟩, hregs⟩

/-- The context segment of a sequence is executed, and it is there exactly if the source absorbs it. -/
theorem executedRun_contextSeg (hs : s.regs = betweenSegments m p 0 0) (context : List Byte) :
    ∃ t rs, ExecutedRun (contextSeg m context) s t rs ∧
      t.regs = betweenSegments m (absorbContext m context p) (contextCount context) 0 := by
  unfold contextSeg absorbContext contextCount
  split
  case isTrue h => exact ⟨s, [], ⟨rfl, nofun⟩, hs⟩
  case isFalse h => exact executedRun_absorbSeg hs .context context

/-- FINAL and the SQUEEZEs give ComputeFinalOutput, whatever the host read before them (R126). -/
theorem executedRun_finalizer (hs : s.regs = betweenSegments m p ctx msg) (outLen : Nat) :
    ∃ t qs, ExecutedRun (plainOffer .final :: squeezeN outLen) s t qs ∧
      ∀ rs, keptOutput outLen (rs ++ qs) = computeFinalOutput p ctx msg outLen := by
  have hb : s.regs.busy = false := by rw [hs]; rfl
  obtain ⟨t, qs, hrun, hrejs, -, -, hkept⟩ := finalAndSqueezesComputeFinalOutput outLen s hb
    (by rw [hs]; rfl) (by rw [hs]; rfl) (by rw [hs]; rfl)
  have hlen : ceilDiv outLen 32 ≤ qs.length := by
    rw [length_readings hb hrun, List.length_cons, length_squeezeN]
    exact Nat.le_succ _
  refine ⟨t, qs, ⟨hrun, hrejs⟩, fun rs => ?_⟩
  rw [keptOutput_append_of_le rs hlen, hkept, hs]
  rfl

end Segments

/-! ### The two sequences -/

theorem decode_initKey (key : Block) : decode (⟨encode .initKey, key⟩ : Offer).cmd = .ok .initKey :=
  decode_encode (i := .initKey) rfl

theorem decode_initHash : decode (plainOffer .initHash).cmd = .ok .initHash :=
  decode_encode (i := .initHash) rfl

/-- A command that starts a computation is executed, and leaves the block before the first segment. -/
theorem executedRun_init {o : Offer} {s : State} {m : Mode} {k0 k1 : Word} (hb : s.regs.busy = false)
    (ho : answer o s.regs = s.regs.started m k0 k1) :
    ∃ t rs, ExecutedRun [o] s t rs ∧ t.regs = betweenSegments m (permInit k0 k1) 0 0 := by
  obtain ⟨t, hrun, hregs, -⟩ := runOffers_answers [o] hb
  have hrej : (answer o s.regs).reading.status.getLsbD 6 = false := by
    rw [Regs.reading_rej, ho, Regs.started_rej]
  exact ⟨t, _, ⟨hrun, List.forall_mem_singleton.2 hrej⟩, hregs.trans (ho.trans (Regs.started_ready hb m k0 k1))⟩

/-- A sequence of either mode: the start, the context if it is not empty, the message, FINAL and the SQUEEZEs are all
executed, and the host keeps the source's output (R135, R136, R140). -/
theorem sequence_computes_output {o : Offer} {s : State} {m : Mode} {k0 k1 : Word} (hb : s.regs.busy = false)
    (ho : answer o s.regs = s.regs.started m k0 k1) (outLen : Nat) (context message : List Byte) :
    ∃ t rs, ExecutedRun (o ::
        (contextSeg m context ++ absorbSeg m .message message ++ [plainOffer .final] ++ squeezeN outLen)) s t rs ∧
      keptOutput outLen rs = computeOutput m k0 k1 outLen context message := by
  obtain ⟨s₁, rs₁, hinit, hs₁⟩ := executedRun_init hb ho
  obtain ⟨s₂, rs₂, hcontext, hs₂⟩ := executedRun_contextSeg hs₁ context
  obtain ⟨s₃, rs₃, hmessage, hs₃⟩ := executedRun_absorbSeg hs₂ .message message
  obtain ⟨t, qs, hfinal, hkept⟩ := executedRun_finalizer hs₃ outLen
  refine ⟨t, (rs₁ ++ (rs₂ ++ rs₃)) ++ qs, ?_, ?_⟩
  · rw [List.append_assoc _ [plainOffer .final]]
    exact (hinit.append (hcontext.append hmessage)).append hfinal
  · rw [hkept, computeOutput_eq]
    rfl

/-- Settles O57: INIT.KEY and INIT.HASH start the computation of their mode, and the rest of both sequences is the
same. -/
theorem tagAndHashSequencesComputeTheSource : Obligations.TagAndHashSequencesComputeTheSource := by
  refine fun outLen context message s _ hb => ⟨fun key => ?_, ?_⟩
  · have hkey : answer ⟨encode .initKey, key⟩ s.regs = s.regs.started .keyed (firstHalf key) (secondHalf key) :=
      answer_afresh (decode_initKey key) rfl
    obtain ⟨t, rs, ⟨hrun, hrejs⟩, hkept⟩ := sequence_computes_output hb hkey outLen context message
    exact ⟨t, rs, hrun, hrejs, hkept⟩
  · have hhash : answer (plainOffer .initHash) s.regs = s.regs.started .keyless 0 0 :=
      answer_afresh decode_initHash rfl
    obtain ⟨t, rs, ⟨hrun, hrejs⟩, hkept⟩ := sequence_computes_output hb hhash outLen context message
    exact ⟨t, rs, hrun, hrejs, hkept⟩

end Sys2Proof.Machine

namespace Sys2Proof.Machine

/-! ## O36: a rejection changes only ERR and REJ (R152) -/

/-- Settles O36: REJ = 1 tells that the word was rejected, since every executed command leaves REJ = 0. -/
theorem rejectionChangesOnlyErrAndRej : Obligations.RejectionChangesOnlyErrAndRej := by
  intro s t hrun hrej
  rcases runCaptured_rejected_or_executed hrun with ⟨code, hcode, rfl⟩ | ⟨i, -, -, rfl⟩
  · exact ⟨rfl, s.reject_err hcode⟩
  · simp [effectOf_rej] at hrej

/-! ## O37: the first failing check decides (R151) -/

/-- The commands the lock does not hold back are those that need no phase (R151). -/
theorem startsAfresh_iff (i : Instr) : startsAfresh i = true ↔ neededPhase i = none := by
  cases i <;> simp [startsAfresh, neededPhase]

section FirstFailingCheck

variable {i : Instr} {r : Regs} {p : Phase}

/-- The first check of a command that needs a phase is that of PHASE (R151 step 3). -/
theorem fails_in_wrong_phase (hn : neededPhase i = some p) (hp : r.phase ≠ p) :
    firstFailure (checksOf i r) = some .phase := by
  have hfirst : ∃ cs, checksOf i r = checkPhase r p :: cs := by
    cases i <;> cases hn <;> exact ⟨_, rfl⟩
  obtain ⟨cs, hcs⟩ := hfirst
  simp [hcs, firstFailure, checkPhase, hp]

/-- A command with no check but that of PHASE passes in its phase. -/
theorem passes_if_only_phase_checked (hcs : checksOf i r = [checkPhase r p]) (hp : r.phase = p) :
    firstFailure (checksOf i r) = none := by
  simp [hcs, firstFailure, checkPhase, hp]

/-- What a command behind the lock shows while ERR = 0: the code of its first failing check, or that it was
executed. -/
theorem exec_shows_firstFailure {s : State} (ha : startsAfresh i = false) (he : s.regs.err = .none) :
    ∃ t, exec i s = .next t ∧
      (∀ code, firstFailure (checksOf i s.regs) = some code → t.regs.rej = true ∧ t.regs.err = code) ∧
      (firstFailure (checksOf i s.regs) = none → t.regs.rej = false) := by
  cases hf : firstFailure (checksOf i s.regs) with
  | some code =>
    refine ⟨_, exec_fails ha he hf, fun code' hcode => ?_, nofun⟩
    exact ⟨rfl, Option.some.inj hcode⟩
  | none => exact ⟨_, exec_executed ha he hf, nofun, fun _ => effectOf_rej _ _ _⟩

end FirstFailingCheck

/-- What a captured word that does not decode shows: its decode code, or the error locked in before it. -/
theorem undecoded_shows_rejectCode {s : State} {why : DecodeReject} (hd : decode s.cmd = .error why) :
    ∃ t, runCaptured s = .next t ∧ t.regs.rej = true ∧
      (s.regs.err = .none → t.regs.err = rejectCode why) ∧ (s.regs.err ≠ .none → t.regs.err = s.regs.err) := by
  obtain ⟨t, ht⟩ := runCaptured_next s
  obtain rfl := runCaptured_undecoded hd ht
  exact ⟨_, ht, rfl, fun he => if_pos he, (s.reject_err (rejectCode_ne_none why)).1⟩

/-- Settles O37: the lock comes before the command's own checks, the first of which is that of PHASE; FINAL and ABSORB
have further ones. -/
theorem firstFailingCheckDecides : Obligations.FirstFailingCheckDecides := by
  refine ⟨⟨rfl, rfl, rfl, rfl, rfl, rfl, rfl, ErrCode.code_le_six⟩, fun s => ⟨fun why hd => ?_, fun i hd => ?_⟩⟩
  · obtain ⟨t, ht, hrej, hcode, hkept⟩ := undecoded_shows_rejectCode hd
    refine ⟨t, ht, hrej, fun he => ?_, hkept⟩
    cases why <;> exact hcode he
  rw [runCaptured_decoded hd]
  by_cases hn : neededPhase i = none
  · have ha := (startsAfresh_iff i).2 hn
    exact ⟨_, exec_afresh ha s, by rw [if_pos hn]; exact effectOf_rej _ _ _⟩
  have ha : startsAfresh i = false := Bool.eq_false_iff.2 (mt (startsAfresh_iff i).1 hn)
  by_cases he : s.regs.err ≠ .none
  · exact ⟨_, exec_locked ha he, by rw [if_neg hn, if_pos he]; exact ⟨rfl, rfl⟩⟩
  obtain ⟨t, ht, hfails, hpasses⟩ := exec_shows_firstFailure ha (not_not.1 he)
  refine ⟨t, ht, ?_⟩
  rw [if_neg hn, if_neg he]
  obtain ⟨p, hp⟩ := Option.ne_none_iff_exists'.1 hn
  split
  case isTrue hwrong =>
    exact hfails _ (fails_in_wrong_phase hp fun h => hwrong (by rw [hp, h]))
  case isFalse hright =>
    have hphase : s.regs.phase = p := Option.some.inj ((not_not.1 hright).symm.trans hp)
    cases i with
    | initHash | initKey | clear => cases hp
    | endMsg | endCtx | update | squeeze =>
      cases hp
      exact hpasses (passes_if_only_phase_checked rfl hphase)
    | final =>
      cases hp
      dsimp only
      split
      case isTrue hopen => exact hfails _ (final_fails_open hphase hopen)
      case isFalse hclosed => exact hpasses (final_checks_pass hphase (Bool.eq_false_iff.2 hclosed))
    | absorb n =>
      cases hp
      dsimp only
      split
      case isTrue hlen => exact hfails _ (absorb_fails_length hphase hlen)
      case isFalse hlen =>
        obtain ⟨hmin, hmax⟩ : 1 ≤ n ∧ n ≤ s.regs.mode.rate := by omega
        split
        case isTrue hshort => exact hfails _ (absorb_fails_partial hphase hmin hmax hshort)
        case isFalse hwhole => exact hpasses (absorb_checks_pass hphase hmin hmax (Bool.eq_false_iff.2 hwhole))

/-! ## O38: the locked block (R153) -/

/-- A word other than those of INIT.KEY, INIT.HASH and CLEAR decodes to no command that passes the lock. -/
theorem startsAfresh_of_other_word {w : CmdWord} {i : Instr}
    (hw : w ≠ 0x00000001 ∧ w ≠ 0x00000011 ∧ w ≠ 0x00000007) (hd : decode w = .ok i) : startsAfresh i = false := by
  obtain ⟨hhash, hkey, hclear⟩ := hw
  obtain ⟨-, rfl⟩ := decode_ok_iff.1 hd
  cases i with
  | initHash => exact absurd rfl hhash
  | initKey => exact absurd rfl hkey
  | clear => exact absurd rfl hclear
  | absorb _ | endMsg | endCtx | final | squeeze | update => rfl

/-- While an error is locked in, a command the lock holds back, or a word that decodes to none, writes only REJ. -/
theorem answer_of_locked {o : Offer} {r : Regs} (ho : ∀ i, decode o.cmd = .ok i → startsAfresh i = false)
    (he : r.err ≠ .none) : answer o r = { r with rej := true } := by
  cases hd : decode o.cmd with
  | error why => simp [answer, hd, Regs.rejected, he]
  | ok i => exact answer_locked hd (ho i hd) he

/-- A run of such commands writes only REJ, and every reading of it is that of the first rejection. -/
theorem answers_of_locked {os : List Offer} {r : Regs}
    (hos : ∀ o ∈ os, ∀ i, decode o.cmd = .ok i → startsAfresh i = false) (he : r.err ≠ .none) :
    (answers os r).1 = { r with rej := (answers os r).1.rej } ∧
      ∀ q ∈ (answers os r).2, q = ({ r with rej := true } : Regs).reading := by
  induction os generalizing r with
  | nil => exact ⟨rfl, nofun⟩
  | cons o os ih =>
    obtain ⟨ho, hrest⟩ := List.forall_mem_cons.1 hos
    obtain ⟨hregs, hreadings⟩ := ih (r := { r with rej := true }) hrest he
    rw [answers, answer_of_locked ho he]
    exact ⟨hregs, List.forall_mem_cons.2 ⟨rfl, hreadings⟩⟩

/-- Settles O38, by the same fact about the answers of the run. -/
theorem lockedBlockGivesNoOutput : Obligations.LockedBlockGivesNoOutput := by
  intro os s hb he hos
  obtain ⟨hregs, hreadings⟩ := answers_of_locked (fun o ho _ => startsAfresh_of_other_word (hos o ho)) he
  obtain ⟨t, hrun, ht, -⟩ := runOffers_answers os hb
  refine ⟨t, _, hrun, by rw [ht]; exact hregs, fun q hq => ?_⟩
  rw [hreadings q hq]
  exact ⟨rfl, rfl⟩

end Sys2Proof.Machine

namespace Sys2Proof.Machine

/-! ## O22, O19, O23, O18: the host's inputs at a ready block -/

/-- The ready block takes the host's next input, whatever act it is. -/
theorem step_input {s : State} {i : HostInput} {rest : List HostInput} (hb : s.regs.busy = false)
    (hi : s.inputs = i :: rest) : step s = runInput i rest s := by
  rw [step_ready hb, runNextInput, hi]

/-- Settles O22: the step runs the value captured, which is one of those presented, and the only one if there is only
one. -/
theorem capturedCommandIsOnePresented : Obligations.CapturedCommandIsOnePresented := by
  refine fun s first later rest hb hi => ⟨⟨_, capturedOffer_mem _ first later, step_input hb hi⟩, ?_⟩
  rintro rfl
  exact step_command hb hi

/-- Settles O19: the reset overwrites every register, whatever the command has done. -/
theorem resetAbandonsTheCommandInProgress : Obligations.ResetAbandonsTheCommandInProgress :=
  fun _ _ _ hb hi => ⟨_, step_input hb hi, rfl, rfl⟩

/-- Settles O23: a withdrawn command is only taken off the inputs, and a block with no input idles. -/
theorem nothingAcceptedChangesNothing : Obligations.NothingAcceptedChangesNothing := by
  refine ⟨fun s o rest hb hi => step_input hb hi, fun s hb hi => ?_⟩
  rw [step_ready hb, runNextInput, hi]

/-- A presented CLEAR leaves the reset registers (R89, R175). -/
theorem answer_clear {o : Offer} {r : Regs} (hd : decode o.cmd = .ok .clear) (hb : r.busy = false) :
    answer o r = Regs.reset :=
  (answer_afresh hd rfl).trans (Regs.zeroized_ready hb)

/-- STATUS reads 0 after reset (R34, R175). -/
theorem Regs.reset_status : Regs.reset.status = 0 := rfl

/-- Settles O18: a reset input leaves the reset registers, which the ports of a ready block show, and so does CLEAR. -/
theorem resetLeavesEveryRegisterZero : Obligations.ResetLeavesEveryRegisterZero := by
  refine ⟨rfl, fun s rest hb hi => ?_, fun s din hb => ?_⟩
  · exact ⟨_, step_input hb hi, rfl, rfl, (State.statusPort_ready rfl).trans Regs.reset_status,
      State.doutPort_ready rfl, rfl⟩
  · have hd : decode (0x00000007 : CmdWord) = .ok .clear := by decide
    obtain ⟨t, ht, hregs, -⟩ := present_answer ⟨0x00000007, din⟩ hb
    exact ⟨t, ht, hregs.trans (answer_clear hd hb)⟩

/-! ## O50: INIT forgets the earlier computation (R177) -/

/-- INIT.KEY and INIT.HASH answer the same registers from any two ready blocks: a start leaves nothing of the registers
before it but BUSY. -/
theorem answer_init_forgets {o : Offer} {r r' : Regs} (hb : r.busy = false) (hb' : r'.busy = false)
    (ho : decode o.cmd = .ok .initKey ∨ decode o.cmd = .ok .initHash) : answer o r = answer o r' := by
  have hstarted : ∀ m k0 k1, r.started m k0 k1 = r'.started m k0 k1 := fun m k0 k1 => by
    rw [Regs.started_ready hb, Regs.started_ready hb']
  rcases ho with hd | hd <;> rw [answer_afresh hd rfl, answer_afresh hd rfl] <;> exact hstarted _ _ _

/-- Settles O50: a run is a function of the registers, and after its INIT these are the same. -/
theorem initForgetsTheEarlierComputation : Obligations.InitForgetsTheEarlierComputation := by
  intro first os s s' hb hb' ho
  have hsame : answers (first :: os) s.regs = answers (first :: os) s'.regs := by
    rw [answers, answers, answer_init_forgets hb hb' ho]
  obtain ⟨t, hrun, hregs, -⟩ := runOffers_answers (first :: os) hb
  obtain ⟨t', hrun', hregs', -⟩ := runOffers_answers (first :: os) hb'
  rw [hsame] at hrun hregs
  exact ⟨t, t', _, hrun, hrun', hregs.trans hregs'.symm⟩

/-! ## O52: Update counts (R186) -/

/-- The words an executed command leaves are its number of Updates of the words it starts from: the initialization and
the diffusion repeat Update, every other command but CLEAR runs it once. -/
theorem effectOf_perm (i : Instr) (s : State) :
    (effectOf i s.din s.regs).perm =
      (fun p => permUpdate p (updatesWith i s).1 (updatesWith i s).2)^[updatesOf i] (updatesFrom i s) := by
  cases i with
  | initHash | initKey => exact permUpdates_eq_iterate c0 c1 initRounds _
  | final => exact diffuse_eq_iterate _ s.regs.perm
  | absorb _ | endMsg | endCtx | squeeze | update | clear => rfl

/-- Settles O52: REJ tells a rejection, which leaves S, from an execution. -/
theorem updateCountsFollowTheTable : Obligations.UpdateCountsFollowTheTable := by
  refine ⟨⟨rfl, rfl, fun _ => rfl, rfl, rfl, rfl, rfl, rfl, rfl⟩, fun i s t h => ?_⟩
  rcases exec_rejected_or_executed h with ⟨code, -, rfl⟩ | ⟨-, rfl⟩
  · exact ⟨nofun, fun _ => rfl⟩
  · exact ⟨fun _ => effectOf_perm i s, fun hrej => by simp [effectOf_rej] at hrej⟩

/-! ## O53: latencies (R187, R188) -/

/-- The registers that decide whether a command is rejected are the same. -/
def SameChecked (r r' : Regs) : Prop :=
  r.mode = r'.mode ∧ r.phase = r'.phase ∧ r.segOpen = r'.segOpen ∧ r.partialSeg = r'.partialSeg ∧ r.err = r'.err

/-- The lock and the checks of a command read these registers only. -/
theorem SameChecked.executes_iff {r r' : Regs} (h : SameChecked r r') (i : Instr) :
    Executes i r ↔ Executes i r' := by
  obtain ⟨hmode, hphase, hopen, hpartial, herr⟩ := h
  have hchecks : checksOf i r = checksOf i r' := by
    cases i <;> simp only [checksOf, checkPhase, checkClosed, checkLength, checkWhole, hmode, hphase, hopen, hpartial]
  rw [Executes, Executes, hchecks, herr]

/-- REJ after a command tells whether it was executed (R32). -/
theorem exec_rej_false_iff {i : Instr} {s t : State} (h : exec i s = .next t) :
    t.regs.rej = false ↔ Executes i s.regs := by
  rcases exec_cases h with ⟨ha, herr, rfl⟩ | ⟨ha, -, code, -, hfail, rfl⟩ | ⟨hexec, rfl⟩
  · simp [Executes, ha, herr]
  · have hnotall : ¬ ∀ c ∈ checksOf i s.regs, c.passes = true := fun hpass => by
      simp [(firstFailure_none_iff _).2 hpass] at hfail
    simp [Executes, ha, hnotall]
  · exact iff_of_true (effectOf_rej _ _ _) hexec

/-- The block rejects an offered command exactly if it does not execute it. -/
theorem rejects_false_iff {o : Offer} {i : Instr} (hd : decode o.cmd = .ok i) (s : State) :
    rejects o s = false ↔ Executes i s.regs := by
  obtain ⟨u, hu⟩ := exec_next i (s.accept o [])
  have hrej : rejects o s = u.regs.rej := by rw [rejects, runCommand_decoded hd, hu]; rfl
  have haccept : SameChecked (s.accept o []).regs s.regs := ⟨rfl, rfl, rfl, rfl, rfl⟩
  rw [hrej, exec_rej_false_iff hu, haccept.executes_iff]

/-- Whether an offered command is rejected depends on its word and on the registers checked. -/
theorem rejects_eq {o o' : Offer} {i : Instr} {s s' : State} (hd : decode o.cmd = .ok i)
    (hd' : decode o'.cmd = .ok i) (h : SameChecked s.regs s'.regs) : rejects o s = rejects o' s' := by
  refine Bool.eq_iff_iff.2 (not_iff_not.1 ?_)
  rw [Bool.not_eq_true, Bool.not_eq_true, rejects_false_iff hd, rejects_false_iff hd', h.executes_iff]

theorem Latency.one_le_cycles (p : Latency) (w : CmdWord) (m : Mode) : 1 ≤ p.cycles w m :=
  Nat.le_add_right 1 _

/-- Settles O53: the latency parameter follows from the word and from rejection, and its cycles from the word and
MODE. -/
theorem latencyDependsOnNoData : Obligations.LatencyDependsOnNoData := by
  refine ⟨fun o s => ?_, fun o o' s s' hcmd hmode hphase hopen hpartial herr => ?_⟩
  · unfold commandLatency
    split <;> exact Latency.one_le_cycles _ _ _
  · unfold commandLatency
    rw [← hcmd, ← hmode]
    cases hd : decode o.cmd with
    | error why => rfl
    | ok i =>
      have hrejects := rejects_eq hd (hcmd ▸ hd) ⟨hmode, hphase, hopen, hpartial, herr⟩
      simp only [hrejects]

end Sys2Proof.Machine
